-- ==== Sys2Proof/Word.lean ====
section
/-! DEFINITION. The word types of the core (00_scope.md section 3, R1, R5; 30_encoding.md R35) and the shape of its frame buffers. -/

namespace Sys2Proof

/-- A register, a sample, a threshold, an output byte: 8 bits, bit 0 the least significant (R1). -/
abbrev Byte := BitVec 8

/-- A host address (20_memory.md R22). -/
abbrev Addr := BitVec 16

/-- A host transaction word: RW at bit 24, ADDR at bits 23:8, DATA at bits 7:0 (30_encoding.md R35). -/
abbrev Htw := BitVec 25

/-- A frame of `h` rows of 128 columns, indexed row first (R5). -/
abbrev Plane (α : Type) (h : Nat) := Vector (Vector α 128) h

/-- The whole frame of one element at every place. -/
def Plane.fill {α : Type} (h : Nat) (a : α) : Plane α h := Vector.replicate h (Vector.replicate 128 a)

/-- The element at row `y`, column `x` (R5: `F[y][x]`). -/
def Plane.at {α : Type} {h : Nat} (p : Plane α h) (y : Fin h) (x : Fin 128) : α := p[y][x]

end Sys2Proof
end

