-- ==== Sys2Proof/Config.lean ====
section
/-! DEFINITION. What an implementation fixes and what the spec leaves free: the named parameters of 00_scope.md section 3
and 93_implementation_defined.md, and the free values. -/

namespace Sys2Proof

/-- The two agents (60_exceptions.md R106). -/
inductive Agent where
  /-- Performs the host transactions. -/
  | host
  /-- Performs the stage that PHASE names. -/
  | pipeline
  deriving DecidableEq, Repr, Inhabited

/-- Which EDGE_ROUND a core has (43_filter_engine.md R61, an open parameter with a default; log 7). -/
inductive EdgeRound where
  /-- The spec's default: truncation toward zero of the whole sum. -/
  | truncate
  /-- Some other conversion: exact on multiples of 4, as R61 says of any choice, and elsewhere the `n`th free function. -/
  | free (n : Nat)
  deriving DecidableEq, Repr

/-- FREE VALUE (log 7): what the conversions of `EdgeRound.free` answer where T is no multiple of 4. No body, so no proof can
see what it answers. -/
opaque Config.freeEdgeRound : Nat → Int → Int

/-- FREE VALUE (logs 2, 3): how many steps the host takes before the pipeline agent's next one, where both have a step and
the order of events is exhausted, by the step count at which the wait begins. 20_memory.md R30 and 46_host_operations.md R93
let the two interleave in any order; each number is finite, as the weak fairness of 70_reset_and_hazards.md R113 asks. -/
opaque Config.delay : Nat → Nat

/-- EDGE_ROUND (43_filter_engine.md R61), from quarter units to whole ones. On multiples of 4 every choice is exact (R61,
92_eei_decisions.md D7). -/
def Config.edgeRound : EdgeRound → Int → Int
  | .truncate, T => Int.tdiv T 4
  | .free n, T => if T % 4 = 0 then T / 4 else Config.freeEdgeRound n T

/-- MATRIX_LAYOUT (92_eei_decisions.md D4): where threshold `k` of the cell at row `r`, column `c` of the 4 × 4 grid
stands in MATRIX. -/
abbrev MatrixLayout := Fin 4 → Fin 4 → Fin 3 → Fin 48

/-- The layout of 10_state.md R12 and 44_quantizer.md R69: cell 4r + c holds its three thresholds side by side. -/
def Config.matrixLayout : MatrixLayout := fun r c k =>
  ⟨3 * (4 * r.val + c.val) + k.val, by omega⟩

/-- The first host address of MATRIX (20_memory.md R23). -/
@[simp] abbrev Config.matrixBase : Nat := 0x0006
/-- The host address of CTRL (20_memory.md R23). -/
@[simp] abbrev Config.ctrlAddr : Nat := 0x0036
/-- The host address of STATUS (20_memory.md R23). -/
@[simp] abbrev Config.statusAddr : Nat := 0x0037
/-- The first host address of FRAME (20_memory.md R24). -/
@[simp] abbrev Config.frameBase : Nat := 0x4000
/-- FRAME holds 120 × 128 samples (00_scope.md section 3). -/
@[simp] abbrev Config.frameBytes : Nat := 15360
/-- The first host address of OUT (20_memory.md R25). -/
@[simp] abbrev Config.outBase : Nat := 0x8000
/-- OUT holds 4096 bytes, of which 3584 hold the image (00_scope.md section 3, 90_conflicts.md C1). -/
@[simp] abbrev Config.outBytes : Nat := 4096
/-- The bytes of OUT that hold the image. -/
@[simp] abbrev Config.tileBytes : Nat := 3584

end Sys2Proof
end

