-- ==== Sys2Proof/Syntax.lean ====
section
/-! DEFINITION. The instructions: one constructor for each row of spec/opcode_table.json (30_encoding.md R36, R37, R38),
and the statements of a host script (30_encoding.md R40). -/

namespace Sys2Proof

/-- An instruction. Operands stand decoded: a register, threshold, sample or output byte is named by its index, so that
an index out of range cannot be written. A reserved access keeps its host address. The `data` of a read is the byte that
the read ignores; it is kept because a fault records the whole transaction word (60_exceptions.md R99; log 32). -/
inductive Instr where
  /-- R79: a write of REG[i]. -/
  | regWr (i : Fin 6) (v : Byte)
  /-- R80: a read of REG[i]. -/
  | regRd (i : Fin 6) (data : Byte)
  /-- R81: a write of MATRIX[k]. -/
  | mtxWr (k : Fin 48) (v : Byte)
  /-- R82: a read of MATRIX[k]. -/
  | mtxRd (k : Fin 48) (data : Byte)
  /-- R83: a write of CTRL; START if bit 0 is 1. -/
  | ctrlWr (v : Byte)
  /-- R84: a read of CTRL. -/
  | ctrlRd (data : Byte)
  /-- R85: a read of STATUS. -/
  | statusRd (data : Byte)
  /-- R86: a write of STATUS. -/
  | statusWr (v : Byte)
  /-- R87: a write of FRAME[y][x]. -/
  | frameWr (y : Fin 120) (x : Fin 128) (v : Byte)
  /-- R88: a read of FRAME[y][x]. -/
  | frameRd (y : Fin 120) (x : Fin 128) (data : Byte)
  /-- R89: a read of OUT[i]. -/
  | outRd (i : Fin 4096) (data : Byte)
  /-- R90: a write of OUT[i]. -/
  | outWr (i : Fin 4096) (v : Byte)
  /-- R91: a read of a reserved address. -/
  | rsvRd (a : Addr) (data : Byte)
  /-- R92: a write of a reserved address. -/
  | rsvWr (a : Addr) (v : Byte)
  /-- R58: mode 0x0. -/
  | fVert1d
  /-- R63: mode 0x1. -/
  | fZero
  /-- R59, R60: mode 0x2. -/
  | fHedgeVert1d
  /-- R64: mode 0x3. -/
  | fPass3
  /-- R64: mode 0x4. -/
  | fPass4
  /-- R64: mode 0x5. -/
  | fPass5
  /-- R64: mode 0x6. -/
  | fPass6
  /-- R64: mode 0x7. -/
  | fPass7
  /-- R64: mode 0x8. -/
  | fPass8
  /-- R64: mode 0x9. -/
  | fPass9
  /-- R64: mode 0xA. -/
  | fPassA
  /-- R64: mode 0xB. -/
  | fPassB
  /-- R64: mode 0xC. -/
  | fPassC
  /-- R64: mode 0xD. -/
  | fPassD
  /-- R62: mode 0xE. -/
  | fLaplace2d
  /-- R64: mode 0xF. -/
  | fPassF
  /-- R49: PHASE 1. -/
  | frontend
  /-- R55: PHASE 2. -/
  | filter
  /-- R67: PHASE 3. -/
  | quantize
  /-- R72: PHASE 4. -/
  | pack
  deriving DecidableEq, Repr

/-- The three encodings of 30_encoding.md section 1. -/
inductive Format where
  /-- A host transaction word, 25 bits (R35). -/
  | htw
  /-- A filter mode code, 4 bits (R37). -/
  | fmode
  /-- A sequencer code, 3 bits (R38). -/
  | phase
  deriving DecidableEq, Repr

/-- The number of bits of a word of the format. -/
def Format.width : Format → Nat
  | .htw => 25
  | .fmode => 4
  | .phase => 3

/-- Which encoding an instruction has. -/
def Instr.format : Instr → Format
  | .regWr .. | .regRd .. | .mtxWr .. | .mtxRd .. | .ctrlWr .. | .ctrlRd .. | .statusRd .. | .statusWr .. => .htw
  | .frameWr .. | .frameRd .. | .outRd .. | .outWr .. | .rsvRd .. | .rsvWr .. => .htw
  | .fVert1d | .fZero | .fHedgeVert1d | .fPass3 | .fPass4 | .fPass5 | .fPass6 | .fPass7 => .fmode
  | .fPass8 | .fPass9 | .fPassA | .fPassB | .fPassC | .fPassD | .fLaplace2d | .fPassF => .fmode
  | .frontend | .filter | .quantize | .pack => .phase

/-- A statement of a host script (30_encoding.md R40). Host variables and labels are named by numbers. -/
inductive HostStmt where
  /-- One host transaction: `WR a, v`, or `RD a -> r` with the variable that receives the byte read. -/
  | xfer (w : Htw) (dst : Option Nat)
  /-- `BRB r, n, L`: go to label `l` if bit `n` of host variable `r` is 1. -/
  | brb (r : Nat) (n : Fin 8) (l : Nat)
  /-- `L:` -/
  | label (l : Nat)
  deriving DecidableEq, Repr

end Sys2Proof
end

