-- ==== Sys2Proof/WellFormed.lean ====
section
/-! DEFINITION. Which instructions and host scripts are well formed. Index operands are in range by their types, so the one
check left on an instruction is that a reserved access names a reserved address (30_encoding.md R36, R39 (a)). -/

namespace Sys2Proof

/-- The reserved ranges of 20_memory.md R23: 0x0038..0x3FFF, 0x7C00..0x7FFF, 0x9000..0xFFFF. -/
def reservedAddr (a : Addr) : Bool :=
  (0x0038 ≤ a.toNat && a.toNat ≤ 0x3FFF) || (0x7C00 ≤ a.toNat && a.toNat ≤ 0x7FFF) || 0x9000 ≤ a.toNat

/-- An instruction that some transaction word, mode code or phase code names. -/
def Instr.wellFormed : Instr → Bool
  | .rsvRd a _ => reservedAddr a
  | .rsvWr a _ => reservedAddr a
  | .regWr .. | .regRd .. | .mtxWr .. | .mtxRd .. | .ctrlWr .. | .ctrlRd .. | .statusRd .. | .statusWr .. => true
  | .frameWr .. | .frameRd .. | .outRd .. | .outWr .. => true
  | .fVert1d | .fZero | .fHedgeVert1d | .fPass3 | .fPass4 | .fPass5 | .fPass6 | .fPass7 => true
  | .fPass8 | .fPass9 | .fPassA | .fPassB | .fPassC | .fPassD | .fLaplace2d | .fPassF => true
  | .frontend | .filter | .quantize | .pack => true

/-- Where a label stands in a script, if it does. -/
def findLabel (l : Nat) : List HostStmt → Option Nat
  | [] => none
  | .label k :: rest => if k = l then some 0 else (findLabel l rest).map (· + 1)
  | .xfer .. :: rest => (findLabel l rest).map (· + 1)
  | .brb .. :: rest => (findLabel l rest).map (· + 1)

/-- Every branch of a script names a label that stands in it (30_encoding.md R40). -/
def scriptWellFormed (script : List HostStmt) : Bool :=
  script.all fun st =>
    match st with
    | .brb _ _ l => (findLabel l script).isSome
    | .xfer .. => true
    | .label _ => true

end Sys2Proof
end

