-- ==== Sys2Proof/Decode.lean ====
section
/-! DEFINITION. The three decoders of 30_encoding.md R36, R37, R38, the encoder written from the same tables, and the
host's view of them by number of bits. Codes that select no instruction are rejected by name. -/

namespace Sys2Proof

/-! ## Host transaction words -/

/-- `HTW = (RW << 24) | (ADDR << 8) | DATA` (R35). -/
def htw (rw : Bool) (a : Addr) (d : Byte) : Htw := BitVec.ofBool rw ++ a ++ d

/-- Bit 24: 1 is a write. -/
def Htw.rw (w : Htw) : Bool := w.getLsbD 24
/-- Bits 23:8. -/
def Htw.addr (w : Htw) : Addr := w.extractLsb' 8 16
/-- Bits 7:0. -/
def Htw.data (w : Htw) : Byte := w.extractLsb' 0 8

/-- The row of R36 that a transaction names, by address and by RW. It is total: every address falls in one range. -/
def decodeAccess (rw : Bool) (a : Addr) (d : Byte) : Instr :=
  if hr : a.toNat < 6 then
    if rw then .regWr ⟨a.toNat, hr⟩ d else .regRd ⟨a.toNat, hr⟩ d
  else if hm : a.toNat < 0x36 then
    if rw then .mtxWr ⟨a.toNat - 6, by omega⟩ d else .mtxRd ⟨a.toNat - 6, by omega⟩ d
  else if a.toNat = 0x36 then
    if rw then .ctrlWr d else .ctrlRd d
  else if a.toNat = 0x37 then
    if rw then .statusWr d else .statusRd d
  else if hf : 0x4000 ≤ a.toNat ∧ a.toNat < 0x7C00 then
    if rw then .frameWr ⟨(a.toNat - 0x4000) / 128, by omega⟩ ⟨(a.toNat - 0x4000) % 128, by omega⟩ d
    else .frameRd ⟨(a.toNat - 0x4000) / 128, by omega⟩ ⟨(a.toNat - 0x4000) % 128, by omega⟩ d
  else if ho : 0x8000 ≤ a.toNat ∧ a.toNat < 0x9000 then
    if rw then .outWr ⟨a.toNat - 0x8000, by omega⟩ d else .outRd ⟨a.toNat - 0x8000, by omega⟩ d
  else
    if rw then .rsvWr a d else .rsvRd a d

/-- R36. -/
def decodeHtw (w : Htw) : Instr := decodeAccess w.rw w.addr w.data

/-- The host address of REG[i] (20_memory.md R23). -/
def regAddr (i : Fin 6) : Addr := BitVec.ofNat 16 i.val
/-- The host address of MATRIX[k] (20_memory.md R23). -/
def mtxAddr (k : Fin 48) : Addr := BitVec.ofNat 16 (Config.matrixBase + k.val)
/-- The host address of CTRL (20_memory.md R23). -/
def ctrlAddr : Addr := 0x0036
/-- The host address of STATUS (20_memory.md R23). -/
def statusAddr : Addr := 0x0037
/-- The host address of FRAME[y][x] (20_memory.md R24). -/
def frameAddr (y : Fin 120) (x : Fin 128) : Addr := BitVec.ofNat 16 (Config.frameBase + 128 * y.val + x.val)
/-- The host address of OUT[i] (20_memory.md R25). -/
def outAddr (i : Fin 4096) : Addr := BitVec.ofNat 16 (Config.outBase + i.val)

/-! ## Mode codes -/

/-- R37: every mode code names one filter operation. -/
def decodeMode (m : BitVec 4) : Instr :=
  match m.toNat with
  | 0x0 => .fVert1d
  | 0x1 => .fZero
  | 0x2 => .fHedgeVert1d
  | 0x3 => .fPass3
  | 0x4 => .fPass4
  | 0x5 => .fPass5
  | 0x6 => .fPass6
  | 0x7 => .fPass7
  | 0x8 => .fPass8
  | 0x9 => .fPass9
  | 0xA => .fPassA
  | 0xB => .fPassB
  | 0xC => .fPassC
  | 0xD => .fPassD
  | 0xE => .fLaplace2d
  | _ => .fPassF

/-! ## Phase codes -/

/-- Why a word is no instruction. -/
inductive DecodeError where
  /-- PHASE 0 selects no step (R38). -/
  | phaseIdle
  /-- PHASE codes 5, 6, 7 are unreachable (10_state.md R17). -/
  | phaseUnreachable
  /-- The word has more bits than its format. -/
  | wordTooWide
  deriving DecidableEq, Repr

/-- R38: the stage that a phase code selects. -/
def decodePhase (p : BitVec 3) : Except DecodeError Instr :=
  match p.toNat with
  | 0 => .error .phaseIdle
  | 1 => .ok .frontend
  | 2 => .ok .filter
  | 3 => .ok .quantize
  | 4 => .ok .pack
  | _ => .error .phaseUnreachable

/-! ## All three together -/

/-- The instruction of a word in a format: total on every number, rejecting by name. -/
def decode (f : Format) (w : Nat) : Except DecodeError Instr :=
  if w < 2 ^ f.width then
    match f with
    | .htw => .ok (decodeHtw (BitVec.ofNat 25 w))
    | .fmode => .ok (decodeMode (BitVec.ofNat 4 w))
    | .phase => decodePhase (BitVec.ofNat 3 w)
  else .error .wordTooWide

/-- The transaction word of a host operation, and 0 for the others. -/
def encodeHtw : Instr → Htw
  | .regWr i v => htw true (regAddr i) v
  | .regRd i d => htw false (regAddr i) d
  | .mtxWr k v => htw true (mtxAddr k) v
  | .mtxRd k d => htw false (mtxAddr k) d
  | .ctrlWr v => htw true ctrlAddr v
  | .ctrlRd d => htw false ctrlAddr d
  | .statusRd d => htw false statusAddr d
  | .statusWr v => htw true statusAddr v
  | .frameWr y x v => htw true (frameAddr y x) v
  | .frameRd y x d => htw false (frameAddr y x) d
  | .outRd i d => htw false (outAddr i) d
  | .outWr i v => htw true (outAddr i) v
  | .rsvRd a d => htw false a d
  | .rsvWr a v => htw true a v
  | .fVert1d | .fZero | .fHedgeVert1d | .fPass3 | .fPass4 | .fPass5 | .fPass6 | .fPass7 => 0
  | .fPass8 | .fPass9 | .fPassA | .fPassB | .fPassC | .fPassD | .fLaplace2d | .fPassF => 0
  | .frontend | .filter | .quantize | .pack => 0

/-- The word of an instruction in its own format (R35, R37, R38). -/
def encode : Instr → Nat
  | .fVert1d => 0x0
  | .fZero => 0x1
  | .fHedgeVert1d => 0x2
  | .fPass3 => 0x3
  | .fPass4 => 0x4
  | .fPass5 => 0x5
  | .fPass6 => 0x6
  | .fPass7 => 0x7
  | .fPass8 => 0x8
  | .fPass9 => 0x9
  | .fPassA => 0xA
  | .fPassB => 0xB
  | .fPassC => 0xC
  | .fPassD => 0xD
  | .fLaplace2d => 0xE
  | .fPassF => 0xF
  | .frontend => 1
  | .filter => 2
  | .quantize => 3
  | .pack => 4
  | .regWr i v => (encodeHtw (.regWr i v)).toNat
  | .regRd i d => (encodeHtw (.regRd i d)).toNat
  | .mtxWr k v => (encodeHtw (.mtxWr k v)).toNat
  | .mtxRd k d => (encodeHtw (.mtxRd k d)).toNat
  | .ctrlWr v => (encodeHtw (.ctrlWr v)).toNat
  | .ctrlRd d => (encodeHtw (.ctrlRd d)).toNat
  | .statusRd d => (encodeHtw (.statusRd d)).toNat
  | .statusWr v => (encodeHtw (.statusWr v)).toNat
  | .frameWr y x v => (encodeHtw (.frameWr y x v)).toNat
  | .frameRd y x d => (encodeHtw (.frameRd y x d)).toNat
  | .outRd i d => (encodeHtw (.outRd i d)).toNat
  | .outWr i v => (encodeHtw (.outWr i v)).toNat
  | .rsvRd a d => (encodeHtw (.rsvRd a d)).toNat
  | .rsvWr a v => (encodeHtw (.rsvWr a v)).toNat

/-! ## The host's view

The opcode table gives mode codes and phase codes, which are 4 and 3 bits, both as one byte, so the words 1 to 4 of 8 bits
name two rows each. This view reads those four as phase codes (log 23); the decoders above are not affected. -/

/-- Which format a table word of `nbits` bits is read in. -/
def tableFormat (nbits w : Nat) : Format :=
  if 24 < nbits then .htw
  else if nbits ≤ 3 then .phase
  else if nbits ≤ 7 then .fmode
  else if 1 ≤ w ∧ w ≤ 4 then .phase
  else .fmode

/-- The instruction of a word of the opcode table. -/
def decodeTableWord (nbits w : Nat) : Option Instr :=
  match decode (tableFormat nbits w) w with
  | .ok i => some i
  | .error _ => none

/-! ## Host script statements (R40) -/

/-- `WR a, v`. -/
def HostStmt.wr (a : Addr) (v : Byte) : HostStmt := .xfer (htw true a v) none
/-- `RD a -> r`. -/
def HostStmt.rd (a : Addr) (r : Nat) : HostStmt := .xfer (htw false a 0) (some r)
/-- `START`. -/
def HostStmt.start : HostStmt := .wr 0x0036 0x01

/-- `WAIT`: poll STATUS into variable `st` until BUSY = 0; `lw` is the loop's label. -/
def scriptWait (lw st : Nat) : List HostStmt := [.label lw, .rd 0x0037 st, .brb st 0 lw]

/-- `FILL a, n, v`: n writes, ascending. DESIGN CHOICE (log 34): an address a + k past 0xFFFF, which R40 gives no meaning, goes
on from 0x0000. -/
def scriptFill (a : Addr) (n : Nat) (v : Byte) : List HostStmt :=
  (List.range n).map fun k => .wr (a + BitVec.ofNat 16 k) v

/-- `LOADREGS b0, …, b5`. -/
def scriptLoadRegs (b : Vector Byte 6) : List HostStmt :=
  (List.finRange 6).map fun i => .wr (regAddr i) b[i]

/-- `LOADMTX t0, t1, t2`: the same thresholds in every cell. -/
def scriptLoadMtx (t0 t1 t2 : Byte) : List HostStmt :=
  (List.range 16).flatMap fun c =>
    [.wr (BitVec.ofNat 16 (0x0006 + 3 * c)) t0, .wr (BitVec.ofNat 16 (0x0007 + 3 * c)) t1,
      .wr (BitVec.ofNat 16 (0x0008 + 3 * c)) t2]

/-- `EXPECT a, v`: the read; the check of the byte against `v` is the test harness's and has no bus effect. -/
def scriptExpect (a : Addr) (r : Nat) : List HostStmt := [.rd a r]

end Sys2Proof
end

