-- ==== Sys2Proof/Machine/State.lean ====
section
/-! DEFINITION. Everything the spec gives the machine (10_state.md), as plain data, with the reasons a step can stop and the
state after reset. -/

namespace Sys2Proof.Machine

/-- Memory by host address: the cells of FRAME and OUT. Canonical when addresses strictly rise and no cell holds 0x00,
which is what an unlisted address reads as (DESIGN CHOICE, log 5). -/
abbrev Memory := List Host.Cell

/-- PHASE (10_state.md R17; five values, 93_implementation_defined.md I14). -/
inductive Phase where
  /-- Code 0: the pipeline agent has no step. -/
  | idle
  /-- Code 1. -/
  | frontend
  /-- Code 2. -/
  | filter
  /-- Code 3. -/
  | quantize
  /-- Code 4. -/
  | pack
  deriving DecidableEq, Repr

/-- A quantizer level (10_state.md R19). -/
inductive Level where
  /-- 0x00 -/
  | l00
  /-- 0x40 -/
  | l40
  /-- 0x80 -/
  | l80
  /-- 0xC0 -/
  | lC0
  deriving DecidableEq, Repr

/-- STATUS (10_state.md R14). Bit 3 is reserved and reads 0, so it has no field. -/
structure Status where
  busy : Bool
  done : Bool
  warn : Bool
  mode : BitVec 4
  deriving DecidableEq, Repr

/-- The latch of decoded parameters (10_state.md R18). -/
structure Dec where
  p : BitVec 2
  m : BitVec 2
  n : BitVec 1
  vh : BitVec 2
  exposure : BitVec 16
  gain4 : BitVec 5
  e3 : BitVec 1
  inv : BitVec 1
  mode : BitVec 4
  deriving DecidableEq, Repr

/-- The fault codes of 60_exceptions.md R99. -/
inductive FaultCode where
  /-- 1 F_RESERVED -/
  | reserved
  /-- 2 F_WRITE_RO -/
  | writeRo
  /-- 3 F_WRITE_BUSY -/
  | writeBusy
  /-- 4 F_READ_BUSY -/
  | readBusy
  /-- 5 F_START_BUSY -/
  | startBusy
  deriving DecidableEq, Repr

/-- What a fault records (60_exceptions.md R99): the code, the transaction word, and for codes 3, 4, 5 PHASE. -/
structure FaultRecord where
  code : FaultCode
  htw : Htw
  phase : Option Phase
  deriving DecidableEq, Repr

/-- Why a step ends in a fault. -/
inductive Fault where
  /-- Raised by `step` and by every meaning in a state whose FAULT mark is set: from then on neither agent has a step
  (60_exceptions.md R101). Safe: the spec gives the run no further meaning. -/
  | halted (code : FaultCode)
  deriving DecidableEq, Repr

/-- Why a step is refused. -/
inductive Refusal where
  /-- Raised by an arm of `exec` whose instruction has no meaning yet. Safe. -/
  | notModelled (mnemonic : String)
  /-- Raised by `step` when PHASE is IDLE and the host has no further statement: neither agent has a step
  (46_host_operations.md R93, R95). Safe. -/
  | noStep
  /-- Raised by `step` when a host script branches to a label that stands nowhere in it (30_encoding.md R40). Safe. -/
  | noLabel (l : Nat)
  /-- R_DIMENSION, raised by the PIPELINE entry point and by no step (46_host_operations.md R96), with the sizes given:
  the length of each row of the frame and the length of the register block. Safe. -/
  | dimension (rows : List Nat) (block : Nat)
  deriving DecidableEq, Repr

/-- RESET_DRAW (10_state.md R21): what the state that reset leaves open holds after it. Cells of `mem` outside FRAME and
OUT, and samples outside their buffer's range, are brought into it when the draw is used (log 6). -/
structure ResetDraw where
  regs : Vector Byte 6
  matrix : Vector Byte 48
  mem : List Host.Cell
  dec : Dec
  sf : Plane Int 120
  hf : Plane Int 120
  ff : Plane Int 120
  qf : Plane Level 112
  deriving DecidableEq, Repr

/-- An event of the total order (20_memory.md R30), or a reset (70_reset_and_hazards.md R109). -/
inductive Event where
  /-- The host performs its next statement. -/
  | host
  /-- The pipeline agent performs its next stage. -/
  | pipeline
  /-- Reset is asserted, and the open state takes this draw. -/
  | reset (d : ResetDraw)
  deriving DecidableEq, Repr

/-- The host agent (30_encoding.md R40): its script, its place in it and its variables. A variable is a cell keyed by the
variable's number. -/
structure HostAgent where
  script : List HostStmt
  pc : Nat
  vars : Memory
  deriving DecidableEq, Repr

/-- The named parameters a core is built with; no step changes them. -/
structure Params where
  edgeRound : EdgeRound
  deriving DecidableEq, Repr

/-- The machine. The first group is host-visible, the second hidden (10_state.md); the third is the host agent and the
model's own bookkeeping (logs 1, 2, 3, 7, 16). -/
structure State where
  regs : Vector Byte 6
  matrix : Vector Byte 48
  status : Status
  mem : Memory
  phase : Phase
  dec : Dec
  sf : Plane Int 120
  hf : Plane Int 120
  ff : Plane Int 120
  qf : Plane Level 112
  fault : Option FaultRecord
  readData : Option Byte
  host : HostAgent
  order : List Event
  tick : Nat
  wait : Option Nat
  params : Params
  deriving DecidableEq, Repr

/-- The decoder latch with 0 in every field. -/
def Dec.zero : Dec := ⟨0, 0, 0, 0, 0, 0, 0, 0, 0⟩

/-- STATUS after reset: 0x00 (10_state.md R21). -/
def Status.reset : Status := ⟨false, false, false, 0⟩

/-- The machine right after reset (10_state.md R21, 70_reset_and_hazards.md R109): STATUS 0x00, PHASE IDLE, FAULT none. What
R21 leaves to a draw holds 0 here (DESIGN CHOICE, logs 4, 5); `Event.reset` carries any draw. -/
def State.reset : State where
  regs := Vector.replicate 6 0
  matrix := Vector.replicate 48 0
  status := Status.reset
  mem := []
  phase := .idle
  dec := Dec.zero
  sf := Plane.fill 120 0
  hf := Plane.fill 120 0
  ff := Plane.fill 120 0
  qf := Plane.fill 112 .l00
  fault := none
  readData := none
  host := ⟨[], 0, []⟩
  order := []
  tick := 0
  wait := none
  params := ⟨.truncate⟩

end Sys2Proof.Machine
end

