-- ==== Sys2Proof/Machine/Operands.lean ====
section
/-! DEFINITION. The arithmetic primitives of 00_scope.md R2 to R5, the addressing of a frame (43_filter_engine.md R56) and the
operand fields of the configuration registers (41_register_decoder.md R42 to R47). -/

namespace Sys2Proof.Machine

/-- R3: division truncating toward zero. -/
def tdiv (a b : Int) : Int := Int.tdiv a b

/-- R4: `clamp(lo, v, hi) = min(max(v, lo), hi)`. -/
def clamp (lo v hi : Int) : Int := min (max v lo) hi

/-- The list `f 0, f 1, …, f (n - 1)`. -/
def tabulate {α : Type} : (n : Nat) → (Fin n → α) → List α
  | 0, _ => []
  | n + 1, f => f 0 :: tabulate n fun i => f i.succ

theorem tabulate_length {α : Type} (n : Nat) (f : Fin n → α) : (tabulate n f).length = n := by
  induction n with
  | zero => rfl
  | succ n ih => simp [tabulate, ih]

/-- The vector whose element at `i` is `f i`. -/
def vecOf {α : Type} {n : Nat} (f : Fin n → α) : Vector α n := ⟨⟨tabulate n f⟩, tabulate_length n f⟩

/-- R5: the frame whose element at row `y`, column `x` is `f y x`. -/
def planeOf {α : Type} {h : Nat} (f : Fin h → Fin 128 → α) : Plane α h := vecOf fun y => vecOf fun x => f y x

/-- R56: a coordinate clamped into `0..n`; it never wraps. -/
def coord (n : Nat) (v : Int) : Fin (n + 1) := Fin.ofNat (n + 1) (clamp 0 v n).toNat

/-- R56: `cx`, a column moved by `dx` and clamped to 0..127. -/
def cx (x : Fin 128) (dx : Int) : Fin 128 := coord 127 (x.val + dx)

/-- R56: `cy`, a row moved by `dy` and clamped to 0..119. -/
def cy (y : Fin 120) (dy : Int) : Fin 120 := coord 119 (y.val + dy)

/-! ## Fields of the configuration registers -/

/-- REG0 bits 2:1 (10_state.md R7). -/
def pmsel (regs : Vector Byte 6) : BitVec 2 := regs[0].extractLsb' 1 2
/-- REG1 bit 7 (R43). -/
def fieldN (regs : Vector Byte 6) : BitVec 1 := regs[1].extractLsb' 7 1
/-- REG1 bits 6:5 (R43). -/
def fieldVH (regs : Vector Byte 6) : BitVec 2 := regs[1].extractLsb' 5 2
/-- REG2 the high byte, REG3 the low byte (R44). -/
def fieldExposure (regs : Vector Byte 6) : BitVec 16 := regs[2] ++ regs[3]
/-- REG4 bits 6:4 (R45). -/
def egain (regs : Vector Byte 6) : BitVec 3 := regs[4].extractLsb' 4 3
/-- REG4 bit 7 (R46). -/
def fieldE3 (regs : Vector Byte 6) : BitVec 1 := regs[4].extractLsb' 7 1
/-- REG4 bit 3 (R46). -/
def fieldI (regs : Vector Byte 6) : BitVec 1 := regs[4].extractLsb' 3 1

/-- R42: the polarity masks (P, M) of each value of PMSEL. -/
def pmTable (sel : BitVec 2) : BitVec 2 × BitVec 2 :=
  #v[((0b00 : BitVec 2), (0b01 : BitVec 2)), (0b01, 0b00), (0b01, 0b10), (0b01, 0b10)][sel.toFin]

/-- R45: four times the gain, by EGAIN. -/
def gain4Lut (e : BitVec 3) : BitVec 5 := #v[(2 : BitVec 5), 3, 4, 5, 8, 12, 16, 20][e.toFin]

/-- R47: `MODE = (N << 3) | (VH << 1) | E3`. -/
def modeCode (n : BitVec 1) (vh : BitVec 2) (e3 : BitVec 1) : BitVec 4 := n ++ vh ++ e3

/-- R41: DECODE. Total and free of side effects (R48). -/
def decodeRegs (regs : Vector Byte 6) : Dec where
  p := (pmTable (pmsel regs)).1
  m := (pmTable (pmsel regs)).2
  n := fieldN regs
  vh := fieldVH regs
  exposure := fieldExposure regs
  gain4 := gain4Lut (egain regs)
  e3 := fieldE3 regs
  inv := fieldI regs
  mode := modeCode (fieldN regs) (fieldVH regs) (fieldE3 regs)

/-- 10_state.md R17: the code of a phase. -/
def phaseCode : Phase → BitVec 3
  | .idle => 0
  | .frontend => 1
  | .filter => 2
  | .quantize => 3
  | .pack => 4

/-- 10_state.md R17: the phase of a code; 5, 6 and 7 are no phase. -/
def phaseOf (c : BitVec 3) : Option Phase :=
  match c.toNat with
  | 0 => some .idle
  | 1 => some .frontend
  | 2 => some .filter
  | 3 => some .quantize
  | 4 => some .pack
  | _ => none

/-- 10_state.md R19: the byte of a level. -/
def levelByte : Level → Byte
  | .l00 => 0x00
  | .l40 => 0x40
  | .l80 => 0x80
  | .lC0 => 0xC0

end Sys2Proof.Machine
end

