-- ==== Sys2Proof/Machine/Flags.lean ====
section
/-! DEFINITION. Every flag computation of the core: the flags are STATUS's fields (10_state.md R14). -/

namespace Sys2Proof.Machine

/-- A mode code with a behaviour of its own: 0x0, 0x1, 0x2, 0xE (30_encoding.md R37, 90_conflicts.md C3). -/
def modeSupported (m : BitVec 4) : Bool := m == 0x0 || m == 0x1 || m == 0x2 || m == 0xE

/-- STATUS after START (46_host_operations.md R83). -/
def statusStart (d : Dec) : Status where
  busy := true
  done := false
  warn := !modeSupported d.mode
  mode := d.mode

/-- STATUS after the completion of PACK: BUSY 0, DONE 1, MODE and WARN kept (46_host_operations.md R94). -/
def statusComplete (st : Status) : Status := { st with busy := false, done := true }

/-- The STATUS byte: `(MODE << 4) | (WARN << 2) | (DONE << 1) | BUSY`, bit 3 zero (46_host_operations.md R85). -/
def statusByte (st : Status) : Byte :=
  st.mode ++ 0#1 ++ BitVec.ofBool st.warn ++ BitVec.ofBool st.done ++ BitVec.ofBool st.busy

end Sys2Proof.Machine
end

