-- ==== Sys2Proof/Machine/Ops.lean ====
section
/-! DEFINITION. The named operations over memory, registers, the fault mark, reset, the host agent and the order of events.
Every meaning goes through them. -/

namespace Sys2Proof.Machine

/-! ## Memory -/

/-- The canonical form: addresses strictly rise and no cell holds what an unlisted address reads as. -/
abbrev Memory.wf (m : Memory) : Prop := m.Pairwise (fun a b => a.1 < b.1) ∧ ∀ c ∈ m, c.2 ≠ 0

/-- The byte at an address; an address that is not listed reads 0x00 (DESIGN CHOICE, log 5). -/
def Memory.read : Memory → Nat → Byte
  | [], _ => 0
  | (k, b) :: m, a => if k = a then b else Memory.read m a

/-- One byte written. Writing 0x00 takes the cell out of the list. -/
def Memory.write : Memory → Nat → Byte → Memory
  | [], a, v => if v = 0 then [] else [(a, v)]
  | (k, b) :: m, a, v =>
    if a < k then (if v = 0 then (k, b) :: m else (a, v) :: (k, b) :: m)
    else if a = k then (if v = 0 then m else (a, v) :: m)
    else (k, b) :: Memory.write m a v

/-- The cells of a block of `n` bytes at `base` that hold `f 0`, `f 1`, …, without those that hold 0x00. -/
def Memory.block (base n : Nat) (f : Nat → Byte) : Memory :=
  (List.range n).filterMap fun i => if f i = 0 then none else some (base + i, f i)

/-- All `n` bytes from `base` on written at once. -/
def Memory.setRange (m : Memory) (base n : Nat) (f : Nat → Byte) : Memory :=
  m.filter (fun c => decide (c.1 < base)) ++ Memory.block base n f
    ++ m.filter (fun c => decide (base + n ≤ c.1))

/-- The addresses memory covers: FRAME and OUT (20_memory.md R23). -/
def inMap (a : Nat) : Bool :=
  (Config.frameBase ≤ a && a < Config.frameBase + Config.frameBytes)
    || (Config.outBase ≤ a && a < Config.outBase + Config.outBytes)

/-- Memory with the given contents, in canonical form; cells outside FRAME and OUT are dropped and a later cell of one
address wins. -/
def Memory.ofCells (cells : List Host.Cell) : Memory :=
  cells.foldl (fun m c => if inMap c.1 then m.write c.1 c.2 else m) []

/-! ## Registers and buffers -/

/-- REG[i] (10_state.md R6). -/
def State.reg (s : State) (i : Fin 6) : Byte := s.regs[i]

/-- `REG[i] <- v`. -/
def State.setReg (s : State) (i : Fin 6) (v : Byte) : State := { s with regs := s.regs.set i v }

/-- MATRIX[k] (10_state.md R12). -/
def State.thr (s : State) (k : Fin 48) : Byte := s.matrix[k]

/-- `MATRIX[k] <- v`. -/
def State.setThr (s : State) (k : Fin 48) (v : Byte) : State := { s with matrix := s.matrix.set k v }

/-- FRAME[y][x] (20_memory.md R24). -/
def State.frame (s : State) (y : Fin 120) (x : Fin 128) : Byte := s.mem.read (frameAddr y x).toNat

/-- `FRAME[y][x] <- v`. -/
def State.setFrame (s : State) (y : Fin 120) (x : Fin 128) (v : Byte) : State :=
  { s with mem := s.mem.write (frameAddr y x).toNat v }

/-- OUT[i] (20_memory.md R25). -/
def State.out (s : State) (i : Fin 4096) : Byte := s.mem.read (outAddr i).toNat

/-- All of OUT written in one step: OUT[i] <- f i (45_tile_packer.md R72). -/
def State.setOut (s : State) (f : Nat → Byte) : State :=
  { s with mem := s.mem.setRange Config.outBase Config.outBytes f }

/-- The byte a host read returns. -/
def State.returnByte (s : State) (b : Byte) : State := { s with readData := some b }

/-! ## Faults -/

/-- `raise Fault(code)` with its record (60_exceptions.md R99, R101): the mark is set if it is unset, and nothing else
changes. A BUSY fault also records PHASE. -/
def State.raise (s : State) (c : FaultCode) (w : Htw) : State :=
  match s.fault with
  | some _ => s
  | none =>
    { s with
      fault := some
        { code := c
          htw := w
          phase :=
            match c with
            | .reserved => none
            | .writeRo => none
            | .writeBusy => some s.phase
            | .readBusy => some s.phase
            | .startBusy => some s.phase } }

/-- The outcome of an operation that leads from `s` to `t`: once FAULT is set there is no further step
(46_host_operations.md, "Common to every host operation"; R93; R101). -/
def whenLive (s t : State) : Host.Outcome State Fault Refusal :=
  match s.fault with
  | some r => .fault (.halted r.code)
  | none => .next t

/-! ## Reset -/

/-- Every sample of a frame brought into a range. -/
def clampPlane {h : Nat} (lo hi : Int) (p : Plane Int h) : Plane Int h := planeOf fun y x => clamp lo (p.at y x) hi

/-- Reset with a draw (10_state.md R21, 70_reset_and_hazards.md R109), in any state. The host agent, the order of events and
the parameters are outside the core and stay (log 22). -/
def State.resetWith (s : State) (d : ResetDraw) : State :=
  { s with
    regs := d.regs
    matrix := d.matrix
    status := Status.reset
    mem := Memory.ofCells d.mem
    phase := .idle
    dec := d.dec
    sf := clampPlane (-128) 127 d.sf
    hf := clampPlane 0 255 d.hf
    ff := clampPlane (-128) 127 d.ff
    qf := d.qf
    fault := none
    readData := none }

/-! ## The order of events -/

/-- The host has a step: a statement of its script is left (R95). -/
def State.hostReady (s : State) : Bool := decide (s.host.pc < s.host.script.length)

/-- The pipeline agent has a step exactly when PHASE ≠ IDLE (R93; that FAULT = none is asked before). -/
def State.coreReady (s : State) : Bool := decide (s.phase ≠ .idle)

/-- How many more steps of the host the pipeline agent's step may wait for, where the order of events is exhausted: what is
left of the wait in progress, or a free number where a new one begins. It is always finite, which is the weak fairness of
70_reset_and_hazards.md R113 (log 3). -/
def State.patience (s : State) : Nat :=
  match s.wait with
  | some n => n
  | none => Config.delay s.tick

/-- Whose turn it is where the order of events names no agent (logs 2, 3). -/
def State.freeTurn (s : State) : Agent :=
  match s.patience with
  | 0 => .pipeline
  | _ + 1 => .host

/-- The agent that the order of events names next, and the free choice where the order is exhausted (log 2). -/
def State.turn (s : State) : Agent :=
  match s.order with
  | .host :: _ => .host
  | .pipeline :: _ => .pipeline
  | .reset _ :: _ => s.freeTurn
  | [] => s.freeTurn

/-- Which agent moves: the one that has a step, and where both have, the one whose turn it is. -/
def State.mover (s : State) : Option Agent :=
  match s.hostReady, s.coreReady with
  | true, true => some s.turn
  | true, false => some .host
  | false, true => some .pipeline
  | false, false => none

/-- The wait of the pipeline agent after this step: one less where the free choice lets the host move, over where it lets the
pipeline agent move, and as it was where no free choice is made. -/
def State.nextWait (s : State) : Option Nat :=
  match s.order, s.hostReady, s.coreReady with
  | [], true, true =>
    match s.patience with
    | 0 => none
    | n + 1 => some n
  | _, _, _ => s.wait

/-- An event of the order is used up, a step is counted, and the wait of the pipeline agent goes on. -/
def State.takeTurn (s : State) : State := { s with order := s.order.tail, tick := s.tick + 1, wait := s.nextWait }

/-! ## The host agent -/

/-- The statement the host performs next (30_encoding.md R40). -/
def State.hostStmt (s : State) : Option HostStmt := s.host.script[s.host.pc]?

/-- The host goes to a statement of its script. -/
def State.hostGoto (s : State) (pc : Nat) : State := { s with host := { s.host with pc := pc } }

/-- A host variable (R40); one that was never assigned reads 0 (DESIGN CHOICE, log 24). -/
def State.hostVar (s : State) (r : Nat) : Byte := s.host.vars.read r

/-- `r <- MemRead(a, 1)`: the host takes over the byte that a read returned. -/
def State.hostAssign (s : State) (r : Nat) : State :=
  match s.readData with
  | some b => { s with host := { s.host with vars := s.host.vars.write r b } }
  | none => s

/-- After a transaction the host goes on to its next statement. A read that did not fault gives its byte to the variable the
statement names. -/
def State.hostFinish (s : State) (w : Htw) (dst : Option Nat) : State :=
  let t := s.hostGoto (s.host.pc + 1)
  match dst, w.rw, s.fault with
  | some r, false, none => t.hostAssign r
  | some _, false, some _ => t
  | some _, true, _ => t
  | none, _, _ => t

/-- `BRB r, n, L` (R40); a label that stands nowhere is refused (log 24). -/
def State.hostBranch (s : State) (r : Nat) (n : Fin 8) (l : Nat) : Host.Outcome State Fault Refusal :=
  if (s.hostVar r).getLsbD n then
    match findLabel l s.host.script with
    | some pc => .next (s.hostGoto pc)
    | none => .refused (.noLabel l)
  else .next (s.hostGoto (s.host.pc + 1))

/-- What the pipeline agent's next step is (R38, R93): decoded from PHASE. -/
def State.stage (s : State) : Except DecodeError Instr := decodePhase (phaseCode s.phase)

/-- The instruction a table word names placed where the next step takes its instruction (log 23): a transaction word as
the host's only statement, with the host's turn; a phase or mode code in the sequencer and the latch, with the pipeline's. -/
def State.placeWord (s : State) (nbits w : Nat) : State :=
  match tableFormat nbits w with
  | .htw =>
    { s with
      host := { s.host with script := [.xfer (BitVec.ofNat 25 w) none], pc := 0 }
      order := .host :: s.order }
  | .phase =>
    match phaseOf (BitVec.ofNat 3 w) with
    | some .idle => { s with phase := .idle, order := .pipeline :: s.order }
    | some p => { s with phase := p, status := { s.status with busy := true, done := false }, order := .pipeline :: s.order }
    | none => s
  | .fmode =>
    { s with
      phase := .filter
      status := { s.status with busy := true, done := false }
      dec := { s.dec with mode := BitVec.ofNat 4 w }
      order := .pipeline :: s.order }

end Sys2Proof.Machine
end

