-- ==== Sys2Proof/Machine/HostOps.lean ====
section
/-! DEFINITION. The host operations (46_host_operations.md R79 to R92). -/

namespace Sys2Proof.Machine

/-- `if BUSY: raise Fault(code) else …`, the guard of R79, R81, R83, R87, R89. -/
def unlessBusy (s : State) (c : FaultCode) (w : Htw) (t : State) : State :=
  if s.status.busy then s.raise c w else t

/-- What START leaves (R83): the registers decoded, STATUS set from the mode code, PHASE FRONTEND. -/
def State.startRun (s : State) : State :=
  { s with dec := decodeRegs s.regs, status := statusStart (decodeRegs s.regs), phase := .frontend }

/-- REG_WR (R79). -/
def execRegWr (i : Fin 6) (v : Byte) (s : State) : Host.Outcome State Fault Refusal :=
  whenLive s (unlessBusy s .writeBusy (encodeHtw (.regWr i v)) (s.setReg i v))

/-- REG_RD (R80): the ignored byte does nothing. -/
def execRegRd (i : Fin 6) (s : State) : Host.Outcome State Fault Refusal :=
  whenLive s (s.returnByte (s.reg i))

/-- MTX_WR (R81). -/
def execMtxWr (k : Fin 48) (v : Byte) (s : State) : Host.Outcome State Fault Refusal :=
  whenLive s (unlessBusy s .writeBusy (encodeHtw (.mtxWr k v)) (s.setThr k v))

/-- MTX_RD (R82). -/
def execMtxRd (k : Fin 48) (s : State) : Host.Outcome State Fault Refusal :=
  whenLive s (s.returnByte (s.thr k))

/-- CTRL_WR (R83): bit 0 = 0 has no effect; bit 0 = 1 is START. Bits 7:1 are ignored. -/
def execCtrlWr (v : Byte) (s : State) : Host.Outcome State Fault Refusal :=
  whenLive s (if v.getLsbD 0 then unlessBusy s .startBusy (encodeHtw (.ctrlWr v)) s.startRun else s)

/-- CTRL_RD (R84). -/
def execCtrlRd (s : State) : Host.Outcome State Fault Refusal :=
  whenLive s (s.returnByte 0x00)

/-- STATUS_RD (R85). -/
def execStatusRd (s : State) : Host.Outcome State Fault Refusal :=
  whenLive s (s.returnByte (statusByte s.status))

/-- STATUS_WR (R86). -/
def execStatusWr (v : Byte) (s : State) : Host.Outcome State Fault Refusal :=
  whenLive s (s.raise .writeRo (encodeHtw (.statusWr v)))

/-- FRAME_WR (R87). -/
def execFrameWr (y : Fin 120) (x : Fin 128) (v : Byte) (s : State) : Host.Outcome State Fault Refusal :=
  whenLive s (unlessBusy s .writeBusy (encodeHtw (.frameWr y x v)) (s.setFrame y x v))

/-- FRAME_RD (R88). -/
def execFrameRd (y : Fin 120) (x : Fin 128) (s : State) : Host.Outcome State Fault Refusal :=
  whenLive s (s.returnByte (s.frame y x))

/-- OUT_RD (R89): the ignored byte stands in the fault's record only. -/
def execOutRd (i : Fin 4096) (data : Byte) (s : State) : Host.Outcome State Fault Refusal :=
  whenLive s (unlessBusy s .readBusy (encodeHtw (.outRd i data)) (s.returnByte (s.out i)))

/-- OUT_WR (R90): F_WRITE_RO, busy or not (60_exceptions.md R100). -/
def execOutWr (i : Fin 4096) (v : Byte) (s : State) : Host.Outcome State Fault Refusal :=
  whenLive s (s.raise .writeRo (encodeHtw (.outWr i v)))

/-- RSV_RD (R91). -/
def execRsvRd (a : Addr) (data : Byte) (s : State) : Host.Outcome State Fault Refusal :=
  whenLive s (s.raise .reserved (encodeHtw (.rsvRd a data)))

/-- RSV_WR (R92). -/
def execRsvWr (a : Addr) (v : Byte) (s : State) : Host.Outcome State Fault Refusal :=
  whenLive s (s.raise .reserved (encodeHtw (.rsvWr a v)))

end Sys2Proof.Machine
end

