-- ==== Sys2Proof/Machine/Filter.lean ====
section
/-! DEFINITION. The spatial filter bank (43_filter_engine.md R55 to R65). Every pass reads a complete buffer and makes a new
one (R65). EDGE_ROUND is the argument `er` (R61). -/

namespace Sys2Proof.Machine

/-- R57: one term of the combination, present if bit `k` of the mask is 1. -/
def maskTerm (mask : BitVec 2) (k : Nat) (v : Int) : Int := if mask.getLsbD k then v else 0

/-- R57: the 1-D vertical combination of a buffer at a pixel. -/
def vcomb (a : Plane Int 120) (p m : BitVec 2) (y : Fin 120) (x : Fin 128) : Int :=
  let px := a.at y x
  let succ := a.at (cy y 1) x
  clamp (-128) (maskTerm p 0 px + maskTerm p 1 succ - maskTerm m 0 px - maskTerm m 1 succ) 127

/-- R58, R60: the vertical combination over a whole buffer. -/
def vert1d (a : Plane Int 120) (p m : BitVec 2) : Plane Int 120 := planeOf (vcomb a p m)

/-- R59: the sum T of the horizontal edge pass, in quarter units. -/
def hedgeSum (a : Plane Int 120) (gain4 : BitVec 5) (y : Fin 120) (x : Fin 128) : Int :=
  let px := a.at y x
  let w := a.at y (cx x (-1))
  let e := a.at y (cx x 1)
  4 * px + (2 * px - w - e) * (gain4.toNat : Int)

/-- R59: the horizontal edge pass into HF. -/
def hedge (er : Int → Int) (a : Plane Int 120) (gain4 : BitVec 5) : Plane Int 120 :=
  planeOf fun y x => clamp 0 (er (hedgeSum a gain4 y x)) 255

/-- R62: the sum T of the four-neighbour enhancement, in quarter units. -/
def laplaceSum (a : Plane Int 120) (gain4 : BitVec 5) (y : Fin 120) (x : Fin 128) : Int :=
  let px := a.at y x
  let n := a.at (cy y (-1)) x
  let s := a.at (cy y 1) x
  let w := a.at y (cx x (-1))
  let e := a.at y (cx x 1)
  4 * px + (4 * px - n - s - e - w) * (gain4.toNat : Int)

/-- R62: the four-neighbour enhancement over a whole buffer. -/
def laplace2d (er : Int → Int) (a : Plane Int 120) (gain4 : BitVec 5) : Plane Int 120 :=
  planeOf fun y x => clamp (-128) (er (laplaceSum a gain4 y x)) 127

/-- R63: every sample 0. -/
def zeroFilter : Plane Int 120 := planeOf fun _ _ => 0

/-- R64: the samples as they are. -/
def passFilter (a : Plane Int 120) : Plane Int 120 := planeOf fun y x => a.at y x

/-- R61: the EDGE_ROUND of this core. -/
def State.edgeRound (s : State) : Int → Int := Config.edgeRound s.params.edgeRound

/-- The buffers that mode 0x0 leaves (R58). -/
def State.filterVert1d (s : State) : State := { s with ff := vert1d s.sf s.dec.p s.dec.m }

/-- The buffers that mode 0x1 leaves (R63). -/
def State.filterZero (s : State) : State := { s with ff := zeroFilter }

/-- The buffers that mode 0x2 leaves (R59, then R60 over the complete HF). -/
def State.filterHedge (s : State) : State :=
  let hf := hedge s.edgeRound s.sf s.dec.gain4
  { s with hf := hf, ff := vert1d hf s.dec.p s.dec.m }

/-- The buffers that mode 0xE leaves (R62). -/
def State.filterLaplace (s : State) : State := { s with ff := laplace2d s.edgeRound s.sf s.dec.gain4 }

/-- The buffers that an unsupported mode leaves (R64). -/
def State.filterPass (s : State) : State := { s with ff := passFilter s.sf }

/-- R55: the case distinction on the mode code. -/
def State.applyFilter (s : State) (mode : BitVec 4) : State :=
  if mode = 0x0 then s.filterVert1d
  else if mode = 0x2 then s.filterHedge
  else if mode = 0xE then s.filterLaplace
  else if mode = 0x1 then s.filterZero
  else s.filterPass

/-- R55: `PHASE <- QUANTIZE`, which ends the FILTER step whatever operation it performed (log 18). -/
def State.filterDone (s : State) : State := { s with phase := .quantize }

/-- F_VERT1D (R58), as the FILTER step performs it. -/
def execFVert1d (s : State) : Host.Outcome State Fault Refusal := whenLive s s.filterVert1d.filterDone
/-- F_ZERO (R63), as the FILTER step performs it. -/
def execFZero (s : State) : Host.Outcome State Fault Refusal := whenLive s s.filterZero.filterDone
/-- F_HEDGE_VERT1D (R59, R60), as the FILTER step performs it. -/
def execFHedgeVert1d (s : State) : Host.Outcome State Fault Refusal := whenLive s s.filterHedge.filterDone
/-- F_PASS_3 (R64), as the FILTER step performs it. -/
def execFPass3 (s : State) : Host.Outcome State Fault Refusal := whenLive s s.filterPass.filterDone
/-- F_PASS_4 (R64), as the FILTER step performs it. -/
def execFPass4 (s : State) : Host.Outcome State Fault Refusal := whenLive s s.filterPass.filterDone
/-- F_PASS_5 (R64), as the FILTER step performs it. -/
def execFPass5 (s : State) : Host.Outcome State Fault Refusal := whenLive s s.filterPass.filterDone
/-- F_PASS_6 (R64), as the FILTER step performs it. -/
def execFPass6 (s : State) : Host.Outcome State Fault Refusal := whenLive s s.filterPass.filterDone
/-- F_PASS_7 (R64), as the FILTER step performs it. -/
def execFPass7 (s : State) : Host.Outcome State Fault Refusal := whenLive s s.filterPass.filterDone
/-- F_PASS_8 (R64), as the FILTER step performs it. -/
def execFPass8 (s : State) : Host.Outcome State Fault Refusal := whenLive s s.filterPass.filterDone
/-- F_PASS_9 (R64), as the FILTER step performs it. -/
def execFPass9 (s : State) : Host.Outcome State Fault Refusal := whenLive s s.filterPass.filterDone
/-- F_PASS_A (R64), as the FILTER step performs it. -/
def execFPassA (s : State) : Host.Outcome State Fault Refusal := whenLive s s.filterPass.filterDone
/-- F_PASS_B (R64), as the FILTER step performs it. -/
def execFPassB (s : State) : Host.Outcome State Fault Refusal := whenLive s s.filterPass.filterDone
/-- F_PASS_C (R64), as the FILTER step performs it. -/
def execFPassC (s : State) : Host.Outcome State Fault Refusal := whenLive s s.filterPass.filterDone
/-- F_PASS_D (R64), as the FILTER step performs it. -/
def execFPassD (s : State) : Host.Outcome State Fault Refusal := whenLive s s.filterPass.filterDone
/-- F_LAPLACE2D (R62), as the FILTER step performs it. -/
def execFLaplace2d (s : State) : Host.Outcome State Fault Refusal := whenLive s s.filterLaplace.filterDone
/-- F_PASS_F (R64), as the FILTER step performs it. -/
def execFPassF (s : State) : Host.Outcome State Fault Refusal := whenLive s s.filterPass.filterDone

/-- FILTER, the stage step (R55): the operation that DEC.MODE selects. -/
def execFilter (s : State) : Host.Outcome State Fault Refusal := whenLive s (s.applyFilter s.dec.mode).filterDone

end Sys2Proof.Machine
end

