-- ==== Sys2Proof/Machine/FrontEnd.lean ====
section
/-! DEFINITION. The front end, the sensor frame rescaler (42_front_end.md R49 to R53). -/

namespace Sys2Proof.Machine

/-- R50: voltage adaptation. -/
def voltageAdapt (v : Byte) : Int := clamp 0 (128 + tdiv (((v.toNat : Int) - 128) * 5) 8) 255

/-- R51: exposure scaling. -/
def exposureScale (va : Int) (e : BitVec 16) : Int := clamp 0 (tdiv (va * (e.toNat : Int)) 256) 255

/-- R52: optional inversion. -/
def invertSample (i : BitVec 1) (ve : Int) : Int := if i = 1 then 255 - ve else ve

/-- R53: the shift to the signed domain. -/
def domainShift (vi : Int) : Int := vi - 128

/-- R49: one pixel of the front end. -/
def frontEndPixel (e : BitVec 16) (i : BitVec 1) (v : Byte) : Int :=
  domainShift (invertSample i (exposureScale (voltageAdapt v) e))

/-- R49: the front end over a whole frame. -/
def frontEnd (frame : Fin 120 → Fin 128 → Byte) (e : BitVec 16) (i : BitVec 1) : Plane Int 120 :=
  planeOf fun y x => frontEndPixel e i (frame y x)

/-- FRONTEND, the stage step (R49). -/
def execFrontend (s : State) : Host.Outcome State Fault Refusal :=
  whenLive s { s with sf := frontEnd s.frame s.dec.exposure s.dec.inv, phase := .filter }

end Sys2Proof.Machine
end

