-- ==== Sys2Proof/Machine/Packer.lean ====
section
/-! DEFINITION. The 2bpp tile byte-packer (45_tile_packer.md R72 to R78). `packPlane` is R72's loop; the stage writes the
bytes of the closed form R78. -/

namespace Sys2Proof.Machine

/-- R73: the color index, `3 - (L >> 6)`. -/
def colorIndex (l : Level) : Nat := 3 - (levelByte l).toNat / 64

/-- R74: the byte of OUT that holds the low plane of pixel (x, y)'s row in its tile. -/
def tileBase (y x : Nat) : Nat := 16 * (16 * (y / 8) + x / 8) + 2 * (y % 8)

/-- R75: the bit of a pixel in its byte. -/
def pixelBit (x : Nat) : Nat := 7 - x % 8

/-- R78: the pixel row that byte `i` of the image holds. -/
def byteRow (i : Nat) : Nat := 8 * (i / 16 / 16) + i % 16 / 2

/-- R78: the pixel column at place `c` (from the left) of byte `i` of the image. -/
def byteCol (i c : Nat) : Nat := 8 * (i / 16 % 16) + c

/-- R78: plane `p` of a pixel. Rows and columns outside the visible frame are not asked for. -/
def planeBit (qf : Plane Level 112) (y x p : Nat) : Bool :=
  (colorIndex (qf.at (Fin.ofNat 112 y) (Fin.ofNat 128 x))).testBit p

/-- R78: OUT[i] as PACK leaves it; the tail holds 0x00 (R77, log 12). -/
def packByte (qf : Plane Level 112) (i : Nat) : Byte :=
  if i < Config.tileBytes then
    (List.range 8).foldl
      (fun b c => if planeBit qf (byteRow i) (byteCol i c) (i % 2) then b ||| (1#8 <<< (7 - c)) else b) 0
  else 0

/-- R76: one pixel's bits set in an output buffer. -/
def packPixel (qf : Plane Level 112) (out : Vector Byte 4096) (y : Fin 112) (x : Fin 128) : Vector Byte 4096 :=
  let ci := colorIndex (qf.at y x)
  let base : Fin 4096 := Fin.ofNat 4096 (tileBase y x)
  let high : Fin 4096 := Fin.ofNat 4096 (tileBase y x + 1)
  let mask : Byte := 1#8 <<< pixelBit x
  let out := if ci.testBit 0 then out.set base (out[base] ||| mask) else out
  if ci.testBit 1 then out.set high (out[high] ||| mask) else out

/-- R72: the loop over all pixels, from a buffer of zeros (R77). -/
def packPlane (qf : Plane Level 112) : Vector Byte 4096 :=
  (List.finRange 112).foldl
    (fun out y => (List.finRange 128).foldl (fun out x => packPixel qf out y x) out) (Vector.replicate 4096 0)

/-- PACK, the stage step (R72), which also completes the invocation (46_host_operations.md R94). -/
def execPack (s : State) : Host.Outcome State Fault Refusal :=
  whenLive s { s.setOut (packByte s.qf) with phase := .idle, status := statusComplete s.status }

end Sys2Proof.Machine
end

