-- ==== Sys2Proof/Machine/Quantizer.lean ====
section
/-! DEFINITION. The ordered-dither quantizer (44_quantizer.md R67 to R71). -/

namespace Sys2Proof.Machine

/-- R70: the threshold cascade, strict and in this order; out-of-order thresholds take the same tests (R71). -/
def level (u : Int) (t0 t1 t2 : Byte) : Level :=
  if u < (t0.toNat : Int) then .l00
  else if u < (t1.toNat : Int) then .l40
  else if u < (t2.toNat : Int) then .l80
  else .lC0

/-- R68: the raw row of a visible row, CROP_TOP = 4 rows further down. -/
def cropRow (y : Fin 112) : Fin 120 := ⟨y.val + 4, by omega⟩

/-- R68: the sample shifted to unsigned. -/
def unsignedSample (ff : Plane Int 120) (y : Fin 112) (x : Fin 128) : Int := ff.at (cropRow y) x + 128

/-- R69: a coordinate modulo 4, which selects the cell. -/
def cellIndex (n : Nat) : Fin 4 := Fin.ofNat 4 n

/-- R69: threshold `k` of the cell that pixel (x, y) selects, under a layout of the matrix. -/
def threshold (layout : MatrixLayout) (matrix : Vector Byte 48) (y : Fin 112) (x : Fin 128) (k : Fin 3) : Byte :=
  matrix[layout (cellIndex y) (cellIndex x) k]

/-- R67: one pixel of the quantizer. -/
def quantizePixel (layout : MatrixLayout) (matrix : Vector Byte 48) (ff : Plane Int 120) (y : Fin 112) (x : Fin 128) : Level :=
  level (unsignedSample ff y x) (threshold layout matrix y x 0) (threshold layout matrix y x 1)
    (threshold layout matrix y x 2)

/-- R67: the quantizer over a whole frame. -/
def quantize (layout : MatrixLayout) (matrix : Vector Byte 48) (ff : Plane Int 120) : Plane Level 112 :=
  planeOf (quantizePixel layout matrix ff)

/-- QUANTIZE, the stage step (R67), with the layout of R69 (log 8). -/
def execQuantize (s : State) : Host.Outcome State Fault Refusal :=
  whenLive s { s with qf := quantize Config.matrixLayout s.matrix s.ff, phase := .pack }

end Sys2Proof.Machine
end

