-- ==== Sys2Proof/Machine/Pipeline.lean ====
section
/-! DEFINITION. PIPELINE, the pure function of the functional contract (46_host_operations.md R96), and its entry point for
inputs of any size, which refuses wrong sizes (60_exceptions.md R99, R_DIMENSION). -/

namespace Sys2Proof.Machine

/-- R55 as a function: FF from SF and the decoded parameters. -/
def filterPlane (er : Int → Int) (d : Dec) (sf : Plane Int 120) : Plane Int 120 :=
  if d.mode = 0x0 then vert1d sf d.p d.m
  else if d.mode = 0x2 then vert1d (hedge er sf d.gain4) d.p d.m
  else if d.mode = 0xE then laplace2d er sf d.gain4
  else if d.mode = 0x1 then zeroFilter
  else passFilter sf

/-- R96 up to SF. -/
def pipelineSf (frame : Fin 120 → Fin 128 → Byte) (regs : Vector Byte 6) : Plane Int 120 :=
  frontEnd frame (decodeRegs regs).exposure (decodeRegs regs).inv

/-- R96 up to FF. -/
def pipelineFf (er : Int → Int) (frame : Fin 120 → Fin 128 → Byte) (regs : Vector Byte 6) : Plane Int 120 :=
  filterPlane er (decodeRegs regs) (pipelineSf frame regs)

/-- R96 up to QF. -/
def pipelineQf (er : Int → Int) (frame : Fin 120 → Fin 128 → Byte) (regs : Vector Byte 6) (matrix : Vector Byte 48) :
    Plane Level 112 :=
  quantize Config.matrixLayout matrix (pipelineFf er frame regs)

/-- R96: PIPELINE, with EDGE_ROUND as an argument; its PACK is R72's loop. -/
def pipeline (er : Int → Int) (frame : Fin 120 → Fin 128 → Byte) (regs : Vector Byte 6) (matrix : Vector Byte 48) :
    Vector Byte 4096 :=
  packPlane (pipelineQf er frame regs matrix)

/-- R96: the entry point that takes a frame and a register block of any size. Sizes other than 120 rows of 128 samples and
6 + 48 bytes are refused before any stage runs. -/
def pipelineEntry (er : Int → Int) (frame : List (List Byte)) (block : List Byte) : Except Refusal (Vector Byte 4096) :=
  if frame.length = 120 ∧ (∀ row ∈ frame, row.length = 128) ∧ block.length = 54 then
    .ok (pipeline er (fun y x => (frame.getD y []).getD x 0) (Vector.ofFn fun i : Fin 6 => block.getD i 0)
      (Vector.ofFn fun k : Fin 48 => block.getD (6 + k) 0))
  else .error (.dimension (frame.map List.length) block.length)

end Sys2Proof.Machine
end

