-- ==== Sys2Proof/Machine/Dispatch.lean ====
section
/-! DEFINITION. exec: one arm for each constructor of Instr, each a direct call of its meaning. -/

namespace Sys2Proof.Machine

def exec (i : Instr) (s : State) : Host.Outcome State Fault Refusal :=
  match i with
  | .regWr k v => Sys2Proof.Machine.execRegWr k v s
  | .regRd k _ => Sys2Proof.Machine.execRegRd k s
  | .mtxWr k v => Sys2Proof.Machine.execMtxWr k v s
  | .mtxRd k _ => Sys2Proof.Machine.execMtxRd k s
  | .ctrlWr v => Sys2Proof.Machine.execCtrlWr v s
  | .ctrlRd _ => Sys2Proof.Machine.execCtrlRd s
  | .statusRd _ => Sys2Proof.Machine.execStatusRd s
  | .statusWr v => Sys2Proof.Machine.execStatusWr v s
  | .frameWr y x v => Sys2Proof.Machine.execFrameWr y x v s
  | .frameRd y x _ => Sys2Proof.Machine.execFrameRd y x s
  | .outRd k d => Sys2Proof.Machine.execOutRd k d s
  | .outWr k v => Sys2Proof.Machine.execOutWr k v s
  | .rsvRd a d => Sys2Proof.Machine.execRsvRd a d s
  | .rsvWr a v => Sys2Proof.Machine.execRsvWr a v s
  | .fVert1d => Sys2Proof.Machine.execFVert1d s
  | .fZero => Sys2Proof.Machine.execFZero s
  | .fHedgeVert1d => Sys2Proof.Machine.execFHedgeVert1d s
  | .fPass3 => Sys2Proof.Machine.execFPass3 s
  | .fPass4 => Sys2Proof.Machine.execFPass4 s
  | .fPass5 => Sys2Proof.Machine.execFPass5 s
  | .fPass6 => Sys2Proof.Machine.execFPass6 s
  | .fPass7 => Sys2Proof.Machine.execFPass7 s
  | .fPass8 => Sys2Proof.Machine.execFPass8 s
  | .fPass9 => Sys2Proof.Machine.execFPass9 s
  | .fPassA => Sys2Proof.Machine.execFPassA s
  | .fPassB => Sys2Proof.Machine.execFPassB s
  | .fPassC => Sys2Proof.Machine.execFPassC s
  | .fPassD => Sys2Proof.Machine.execFPassD s
  | .fLaplace2d => Sys2Proof.Machine.execFLaplace2d s
  | .fPassF => Sys2Proof.Machine.execFPassF s
  | .frontend => Sys2Proof.Machine.execFrontend s
  | .filter => Sys2Proof.Machine.execFilter s
  | .quantize => Sys2Proof.Machine.execQuantize s
  | .pack => Sys2Proof.Machine.execPack s

end Sys2Proof.Machine
end

