-- ==== Sys2Proof/Machine/Step.lean ====
section
/-! DEFINITION. One step of the machine: the next event of the total order (20_memory.md R30). -/

namespace Sys2Proof.Machine

/-- The host performs its next statement (30_encoding.md R40). A transaction is decoded and run, and the host goes on. -/
def hostStep (s : State) : Host.Outcome State Fault Refusal :=
  match s.hostStmt with
  | some (.xfer w dst) =>
    match exec (decodeHtw w) s with
    | .next t => .next (t.hostFinish w dst)
    | .fault f => .fault f
    | .refused r => .refused r
  | some (.brb r n l) => s.hostBranch r n l
  | some (.label _) => .next (s.hostGoto (s.host.pc + 1))
  | none => .refused .noStep

/-- The pipeline agent performs the stage that PHASE names (46_host_operations.md R93). -/
def pipelineStep (s : State) : Host.Outcome State Fault Refusal :=
  match s.stage with
  | .ok i => exec i s
  | .error _ => .refused .noStep

/-- One step. Reset comes first, in any state (70_reset_and_hazards.md R109). A faulted state has no other step
(60_exceptions.md R101). Otherwise one agent moves, if one has a step (46_host_operations.md R93, R95). -/
def step (s : State) : Host.Outcome State Fault Refusal :=
  match s.order with
  | .reset d :: _ => .next (s.takeTurn.resetWith d)
  | _ =>
    match s.fault with
    | some r => .fault (.halted r.code)
    | none =>
      match s.mover with
      | some .host => hostStep s.takeTurn
      | some .pipeline => pipelineStep s.takeTurn
      | none => .refused .noStep

/-- The instruction of a table word placed where the next step takes its instruction (log 23). -/
def State.withFetchWord (s : State) (nbits w : Nat) : State := s.placeWord nbits w

end Sys2Proof.Machine
end

