-- ==== Sys2Proof/Safety.lean ====
section
/-! DEFINITION. The terms statements are written in: what a final state is, the invariants of the machine, and which parts of
two states agree. -/

namespace Sys2Proof.Machine

/-- FAULT = none: the core still has steps. -/
abbrev State.Live (s : State) : Prop := s.fault = none

/-- Idle, as 95_test_vectors.md section 2.6 uses the word: STATUS.BUSY = 0 and FAULT = none. -/
abbrev State.Idle (s : State) : Prop := s.fault = none ∧ s.status.busy = false

/-- Busy, as 95_test_vectors.md section 2.6 uses the word: STATUS.BUSY = 1 and FAULT = none. -/
abbrev State.Busy (s : State) : Prop := s.fault = none ∧ s.status.busy = true

/-- A final state of a run (46_host_operations.md R95): PHASE = IDLE, the host has no further operation, FAULT = none. -/
abbrev State.Final (s : State) : Prop := s.fault = none ∧ s.phase = .idle ∧ s.hostReady = false

/-! ## Invariants -/

/-- Memory is canonical and lists only addresses of FRAME and OUT; so are the host's variables canonical. -/
def State.MemoryInv (s : State) : Prop :=
  s.mem.wf ∧ (∀ c ∈ s.mem, inMap c.1 = true) ∧ s.host.vars.wf

/-- The control state is legal: BUSY = 1 exactly when PHASE ≠ IDLE (10_state.md R17), never BUSY and DONE together, and WARN
tells whether MODE is an unsupported code (R14). -/
def State.ControlInv (s : State) : Prop :=
  (s.status.busy = true ↔ s.phase ≠ .idle) ∧
  (s.status.busy = true → s.status.done = false) ∧
  s.status.warn = !modeSupported s.status.mode

/-- Every sample of a frame lies in a range. -/
def InRange {h : Nat} (lo hi : Int) (p : Plane Int h) : Prop := ∀ y x, lo ≤ p.at y x ∧ p.at y x ≤ hi

/-- Every hidden sample lies in the range 10_state.md R19 gives its buffer. -/
def State.SampleInv (s : State) : Prop :=
  InRange (-128) 127 s.sf ∧ InRange 0 255 s.hf ∧ InRange (-128) 127 s.ff

/-- While an invocation is in progress, the latch holds the decoded registers and STATUS.MODE the mode code
(20_memory.md R33, 46_host_operations.md R83), and each buffer that a completed stage wrote holds that stage's part of
PIPELINE on the present FRAME, REG and MATRIX (46_host_operations.md R96). -/
def State.InvocationInv (s : State) : Prop :=
  (s.phase ≠ .idle → s.dec = decodeRegs s.regs ∧ s.status.mode = s.dec.mode) ∧
  (s.phase = .filter → s.sf = pipelineSf s.frame s.regs) ∧
  (s.phase = .quantize → s.ff = pipelineFf s.edgeRound s.frame s.regs) ∧
  (s.phase = .pack → s.qf = pipelineQf s.edgeRound s.frame s.regs s.matrix)

/-! ## What two states share -/

/-- REG0..REG5 and MATRIX. -/
def SameConfig (s t : State) : Prop := t.regs = s.regs ∧ t.matrix = s.matrix

/-- STATUS and PHASE. -/
def SameControl (s t : State) : Prop := t.status = s.status ∧ t.phase = s.phase

/-- The hidden buffers and the latch. -/
def SameHidden (s t : State) : Prop :=
  t.dec = s.dec ∧ t.sf = s.sf ∧ t.hf = s.hf ∧ t.ff = s.ff ∧ t.qf = s.qf

/-- Every byte of memory: all of FRAME and OUT. -/
def SameMemory (s t : State) : Prop := ∀ a, t.mem.read a = s.mem.read a

/-- Every byte of memory but the one at an address. -/
def SameMemoryBut (a : Nat) (s t : State) : Prop := ∀ a', a' ≠ a → t.mem.read a' = s.mem.read a'

/-- The host agent, the order of events, the step count, the wait and the parameters: what is outside the core. -/
def SameOutside (s t : State) : Prop :=
  t.host = s.host ∧ t.order = s.order ∧ t.tick = s.tick ∧ t.wait = s.wait ∧ t.params = s.params

/-- Everything of the core but the fault mark and the byte a read returns. -/
def SameCore (s t : State) : Prop := SameConfig s t ∧ SameControl s t ∧ SameHidden s t ∧ SameMemory s t

/-- The operation runs and leads to a state with a property. -/
def Completes (o : Host.Outcome State Fault Refusal) (P : State → Prop) : Prop := ∃ t, o = .next t ∧ P t

/-- The operation leads to `s` with the fault mark set to this record, and nothing else changed (60_exceptions.md R99,
R101). -/
def FaultsWith (o : Host.Outcome State Fault Refusal) (s : State) (c : FaultCode) (w : Htw) (p : Option Phase) : Prop :=
  o = .next { s with fault := some ⟨c, w, p⟩ }

/-- An event that is a reset. -/
def Event.isReset : Event → Bool
  | .host => false
  | .pipeline => false
  | .reset _ => true

/-- The next event of the order is no reset. -/
abbrev State.NoResetNext (s : State) : Prop := ∀ e, s.order.head? = some e → e.isReset = false

/-- No event of the order is a reset: the launch goes on (70_reset_and_hazards.md R109). -/
abbrev State.NoResetAhead (s : State) : Prop := ∀ e ∈ s.order, e.isReset = false

/-- The run of some number of steps leads to a state with a property. -/
def Reaches (s : State) (P : State → Prop) : Prop := ∃ k t, core.run k s = .next t ∧ P t

/-- The run ends by the host's own doing while an invocation is in progress: one of its transactions faults (60_exceptions.md
R101), or a branch of its script names no label (log 24). -/
def HostStopsWhileBusy (s : State) : Prop :=
  Reaches s fun t => t.status.busy = true ∧ (t.fault ≠ none ∨ ∃ l, step t = .refused (.noLabel l))

/-- The host stands at a WAIT with loop label `lw` and variable `st` (30_encoding.md R40), and `lw` is the loop's label. -/
def State.AtWait (s : State) (lw st : Nat) : Prop :=
  scriptWait lw st <+: s.host.script.drop s.host.pc ∧ findLabel lw s.host.script = some s.host.pc

/-! ## The neighbours of a pixel, said without the clamp of 43_filter_engine.md R56

At an edge the missing neighbour is the pixel itself. -/

/-- The row above. -/
def rowAbove (y : Fin 120) : Fin 120 := ⟨y.val - 1, by omega⟩
/-- The row below. -/
def rowBelow (y : Fin 120) : Fin 120 := if h : y.val + 1 < 120 then ⟨y.val + 1, h⟩ else y
/-- The column to the left. -/
def colLeft (x : Fin 128) : Fin 128 := ⟨x.val - 1, by omega⟩
/-- The column to the right. -/
def colRight (x : Fin 128) : Fin 128 := if h : x.val + 1 < 128 then ⟨x.val + 1, h⟩ else x

/-- The sum of the 1-D vertical combination (43_filter_engine.md R57) before its clamp. -/
def vertSum (a : Plane Int 120) (p m : BitVec 2) (y : Fin 120) (x : Fin 128) : Int :=
  (if p.getLsbD 0 then a.at y x else 0) + (if p.getLsbD 1 then a.at (rowBelow y) x else 0)
    - (if m.getLsbD 0 then a.at y x else 0) - (if m.getLsbD 1 then a.at (rowBelow y) x else 0)

end Sys2Proof.Machine
end

