-- ==== Sys2Proof/Certificates/Slice0/Obligations.lean ====
section
/-! DEFINITION. The statements for the provers, from the numbered rules of spec/. Each docstring names the rule it formalises. -/

open Sys2Proof Sys2Proof.Machine

/-! ## Encodings -/

/-- Words written out by hand from 30_encoding.md R35 to R38 and 95_test_vectors.md section 2.6 decode to the instructions they
stand for; PHASE 0 and 5 to 7 select no stage. That a read keeps its data byte as an operand is the model's choice (log 32). -/
def Obligations.SpecWordsDecodeToTheirInstructions : Prop :=
  decode .htw 0x10004FF = .ok (.regWr 4 0xFF) ∧ decode .htw 0x0000400 = .ok (.regRd 4 0) ∧
  decode .htw 0x1000640 = .ok (.mtxWr 0 0x40) ∧ decode .htw 0x0003500 = .ok (.mtxRd 47 0) ∧
  decode .htw 0x1003601 = .ok (.ctrlWr 1) ∧ decode .htw 0x0003755 = .ok (.statusRd 0x55) ∧
  decode .htw 0x14200FF = .ok (.frameWr 4 0 0xFF) ∧ decode .htw 0x0800100 = .ok (.outRd 1 0) ∧
  decode .htw 0x17C0000 = .ok (.rsvWr 0x7C00 0) ∧
  decode .fmode 0b0000 = .ok .fVert1d ∧ decode .fmode 0b0001 = .ok .fZero ∧ decode .fmode 0b0010 = .ok .fHedgeVert1d ∧
  decode .fmode 0b1110 = .ok .fLaplace2d ∧ decode .fmode 0b1111 = .ok .fPassF ∧ decode .fmode 0b0100 = .ok .fPass4 ∧
  decode .phase 1 = .ok .frontend ∧ decode .phase 2 = .ok .filter ∧ decode .phase 3 = .ok .quantize ∧
  decode .phase 4 = .ok .pack ∧ decode .phase 0 = .error .phaseIdle ∧
  decode .phase 5 = .error .phaseUnreachable ∧ decode .phase 7 = .error .phaseUnreachable

/-- R36: which operation a transaction names, for every address and data byte; a write word is
0x1000000 + 0x100·ADDR + DATA and a read word 0x100·ADDR + DATA (R35). A read's data byte is ignored: the read does what the
same read with DATA = 0 does; that the word a fault records keeps the byte is the model's choice (log 32). -/
def Obligations.TransactionDecodesByTheOpcodeMap : Prop :=
  ∀ (a d : Nat), a < 0x10000 → d < 0x100 →
    let wr := decodeHtw (BitVec.ofNat 25 (0x1000000 + 0x100 * a + d))
    let rd := decodeHtw (BitVec.ofNat 25 (0x100 * a + d))
    let b : Byte := BitVec.ofNat 8 d
    (∀ i : Fin 6, a = i.val → wr = .regWr i b ∧ rd = .regRd i b) ∧
    (∀ k : Fin 48, a = 0x0006 + k.val → wr = .mtxWr k b ∧ rd = .mtxRd k b) ∧
    (a = 0x0036 → wr = .ctrlWr b ∧ rd = .ctrlRd b) ∧
    (a = 0x0037 → wr = .statusWr b ∧ rd = .statusRd b) ∧
    (∀ (y : Fin 120) (x : Fin 128), a = 0x4000 + 128 * y.val + x.val → wr = .frameWr y x b ∧ rd = .frameRd y x b) ∧
    (∀ i : Fin 4096, a = 0x8000 + i.val → wr = .outWr i b ∧ rd = .outRd i b) ∧
    ((0x0038 ≤ a ∧ a ≤ 0x3FFF) ∨ (0x7C00 ≤ a ∧ a ≤ 0x7FFF) ∨ 0x9000 ≤ a →
      wr = .rsvWr (BitVec.ofNat 16 a) b ∧ rd = .rsvRd (BitVec.ofNat 16 a) b) ∧
    let rd0 := decodeHtw (BitVec.ofNat 25 (0x100 * a))
    (∀ s : State, s.Live → ∃ t u, exec rd s = .next t ∧ exec rd0 s = .next u ∧
      { t with fault := none } = { u with fault := none } ∧ t.fault.map (·.code) = u.fault.map (·.code)) ∧
    (∀ s : State, s.fault ≠ none → exec rd s = exec rd0 s)

/-- Decoding the word of a well-formed instruction, in its own format, gives the instruction back, with every operand; among
them the data byte of a read, an operand by the model's choice (log 32). -/
def Obligations.DecodeOfEncodeIsTheInstruction : Prop :=
  ∀ i : Instr, i.wellFormed = true → decode i.format (encode i) = .ok i

/-- A word that decodes is the word of the instruction it decodes to: no two words of a format name one instruction of the
model, and no bit is dropped. For reads this is the model's choice (log 32) and not a rule: R36 ignores the data byte of a read,
so that by R36 the 256 words of a read decode alike; the model keeps the byte as an operand, because a fault records the whole
word (60_exceptions.md R99). -/
def Obligations.EncodeOfDecodeIsTheWord : Prop :=
  ∀ (f : Format) (w : Nat) (i : Instr), decode f w = .ok i → i.format = f ∧ i.wellFormed = true ∧ encode i = w

/-! ## The register decoder -/

/-- R42, R43, R46, R47: the fields of DEC as numbers, from the register bytes as numbers, for every register block; and
EXPOSURE (R44) and GAIN4 (R45). -/
def Obligations.DecodedFieldsFollowTheRegisters : Prop :=
  ∀ regs : Vector Byte 6,
    let d := decodeRegs regs
    let sel := regs[0].toNat / 2 % 4
    (sel = 0 → d.p = 0b00 ∧ d.m = 0b01) ∧ (sel = 1 → d.p = 0b01 ∧ d.m = 0b00) ∧
    (sel = 2 ∨ sel = 3 → d.p = 0b01 ∧ d.m = 0b10) ∧
    d.n.toNat = regs[1].toNat / 128 ∧ d.vh.toNat = regs[1].toNat / 32 % 4 ∧
    d.exposure.toNat = regs[2].toNat * 256 + regs[3].toNat ∧
    d.gain4.toNat = [2, 3, 4, 5, 8, 12, 16, 20].getD (regs[4].toNat / 16 % 8) 0 ∧
    d.e3.toNat = regs[4].toNat / 128 ∧ d.inv.toNat = regs[4].toNat / 8 % 2 ∧
    d.mode.toNat = 8 * d.n.toNat + 2 * d.vh.toNat + d.e3.toNat

/-- R48, last sentence: register blocks that differ only in unused bits (REG0 bits 0 and 7:3, REG1 bits 4:0, REG4 bits 2:0,
REG5) decode alike and give the same image, under every EDGE_ROUND. -/
def Obligations.UnusedRegisterBitsHaveNoEffect : Prop :=
  ∀ r q : Vector Byte 6,
    r[0] &&& 0x06#8 = q[0] &&& 0x06#8 → r[1] &&& 0xE0#8 = q[1] &&& 0xE0#8 → r[2] = q[2] → r[3] = q[3] →
    r[4] &&& 0xF8#8 = q[4] &&& 0xF8#8 →
      decodeRegs r = decodeRegs q ∧ ∀ er frame matrix, pipeline er frame r matrix = pipeline er frame q matrix

/-! ## The front end -/

/-- R49 to R53: the FRONTEND step writes every sample of SF by the four formulas, sets PHASE to FILTER and changes nothing
else. The truncating division of R50 is written out by sign. -/
def Obligations.FrontendRescalesEverySample : Prop :=
  ∀ s : State, s.Live → Completes (exec .frontend s) fun t =>
    (∀ y x,
      let v := (s.frame y x).toNat
      let va := if 128 ≤ v then 128 + (v - 128) * 5 / 8 else 128 - (128 - v) * 5 / 8
      let ve := min (va * s.dec.exposure.toNat / 256) 255
      let vi := if s.dec.inv = 1 then 255 - ve else ve
      t.sf.at y x = (vi : Int) - 128) ∧
    t.phase = .filter ∧ t.status = s.status ∧ SameConfig s t ∧
    t.dec = s.dec ∧ t.hf = s.hf ∧ t.ff = s.ff ∧ t.qf = s.qf ∧
    SameMemory s t ∧ t.fault = none ∧ t.readData = s.readData ∧ SameOutside s t

/-- R54: the range of every quantity of the front end. -/
def Obligations.FrontendValuesStayInTheirRanges : Prop :=
  ∀ (v : Byte) (e : BitVec 16) (i : BitVec 1),
    let diff := (v.toNat : Int) - 128
    let va := voltageAdapt v
    let ve := exposureScale va e
    (-128 ≤ diff ∧ diff ≤ 127) ∧ (-640 ≤ diff * 5 ∧ diff * 5 ≤ 635) ∧
    (-80 ≤ tdiv (diff * 5) 8 ∧ tdiv (diff * 5) 8 ≤ 79) ∧ (48 ≤ va ∧ va ≤ 207) ∧
    (0 ≤ va * (e.toNat : Int) ∧ va * (e.toNat : Int) ≤ 13565745) ∧ (0 ≤ ve ∧ ve ≤ 255) ∧
    (0 ≤ invertSample i ve ∧ invertSample i ve ≤ 255) ∧
    (-128 ≤ frontEndPixel e i v ∧ frontEndPixel e i v ≤ 127)

/-! ## The filter engine -/

/-- R57, R58: F_VERT1D writes every sample of FF with the clamped vertical combination of SF, the successor row being the
row itself at the bottom edge, and changes nothing else but PHASE (FilterOperationsEndTheFilterStep). -/
def Obligations.Vert1dCombinesEachPixelWithItsSuccessor : Prop :=
  ∀ s : State, s.Live → Completes (exec .fVert1d s) fun t =>
    (∀ y x, t.ff.at y x = max (-128) (min (vertSum s.sf s.dec.p s.dec.m y x) 127)) ∧
    t.status = s.status ∧ SameConfig s t ∧
    t.dec = s.dec ∧ t.sf = s.sf ∧ t.hf = s.hf ∧ t.qf = s.qf ∧
    SameMemory s t ∧ t.fault = none ∧ t.readData = s.readData ∧ SameOutside s t

/-- R59, R60: F_HEDGE_VERT1D writes HF from SF and then FF from the complete HF, whatever EDGE_ROUND the core has. -/
def Obligations.HedgeVert1dFiltersInTwoPasses : Prop :=
  ∀ s : State, s.Live → Completes (exec .fHedgeVert1d s) fun t =>
    (∀ y x,
      let px := s.sf.at y x
      let w := s.sf.at y (colLeft x)
      let e := s.sf.at y (colRight x)
      t.hf.at y x = max 0 (min (s.edgeRound (4 * px + (2 * px - w - e) * (s.dec.gain4.toNat : Int))) 255)) ∧
    (∀ y x, t.ff.at y x = max (-128) (min (vertSum t.hf s.dec.p s.dec.m y x) 127)) ∧
    t.status = s.status ∧ SameConfig s t ∧ t.dec = s.dec ∧ t.sf = s.sf ∧ t.qf = s.qf ∧
    SameMemory s t ∧ t.fault = none ∧ t.readData = s.readData ∧ SameOutside s t

/-- R62 (with the neighbours of R56): F_LAPLACE2D writes every sample of FF with the four-neighbour enhancement of SF, and
changes nothing else but PHASE (FilterOperationsEndTheFilterStep). -/
def Obligations.Laplace2dEnhancesByFourNeighbours : Prop :=
  ∀ s : State, s.Live → Completes (exec .fLaplace2d s) fun t =>
    (∀ y x,
      let px := s.sf.at y x
      let sum := 4 * px - s.sf.at (rowAbove y) x - s.sf.at (rowBelow y) x - s.sf.at y (colRight x) - s.sf.at y (colLeft x)
      t.ff.at y x = max (-128) (min (s.edgeRound (4 * px + sum * (s.dec.gain4.toNat : Int))) 127)) ∧
    t.status = s.status ∧ SameConfig s t ∧
    t.dec = s.dec ∧ t.sf = s.sf ∧ t.hf = s.hf ∧ t.qf = s.qf ∧
    SameMemory s t ∧ t.fault = none ∧ t.readData = s.readData ∧ SameOutside s t

/-- R63: F_ZERO writes 0 to every sample of FF, whatever SF holds; and START of mode 0x1 sets no warning. -/
def Obligations.ZeroModeForcesEverySampleToZero : Prop :=
  (∀ s : State, s.Live → Completes (exec .fZero s) fun t =>
    (∀ y x, t.ff.at y x = 0) ∧
    t.status = s.status ∧ SameConfig s t ∧
    t.dec = s.dec ∧ t.sf = s.sf ∧ t.hf = s.hf ∧ t.qf = s.qf ∧
    SameMemory s t ∧ t.fault = none ∧ t.readData = s.readData ∧ SameOutside s t) ∧
  (∀ (s : State) (v : Byte), s.Idle → v.getLsbD 0 = true → (decodeRegs s.regs).mode = 0x1 →
    Completes (exec (.ctrlWr v) s) fun t => t.status.warn = false ∧ t.status.mode = 0x1)

/-- R64: each of the twelve pass-through operations copies SF to FF, and START of an unsupported mode sets WARN and MODE. -/
def Obligations.PassThroughCopiesAndStartWarns : Prop :=
  (∀ i ∈ [Instr.fPass3, .fPass4, .fPass5, .fPass6, .fPass7, .fPass8, .fPass9, .fPassA, .fPassB, .fPassC, .fPassD, .fPassF],
    ∀ s : State, s.Live → Completes (exec i s) fun t =>
      (∀ y x, t.ff.at y x = s.sf.at y x) ∧
      t.status = s.status ∧ SameConfig s t ∧
      t.dec = s.dec ∧ t.sf = s.sf ∧ t.hf = s.hf ∧ t.qf = s.qf ∧
      SameMemory s t ∧ t.fault = none ∧ t.readData = s.readData ∧ SameOutside s t) ∧
  (∀ (s : State) (v : Byte), s.Idle → v.getLsbD 0 = true →
    (decodeRegs s.regs).mode ∉ [(0x0 : BitVec 4), 0x1, 0x2, 0xE] →
    Completes (exec (.ctrlWr v) s) fun t => t.status.warn = true ∧ t.status.mode = (decodeRegs s.regs).mode)

/-- R55: the FILTER step performs, by cases on DEC.MODE, F_VERT1D, F_HEDGE then F_VERT1D, F_LAPLACE2D, F_ZERO or F_PASS (any
of the twelve pass-through rows), and it ends with PHASE = QUANTIZE. That each operation, taken as an instruction, is that
whole step, so that the two are equal, is the model's inference from R55 (log 18). -/
def Obligations.FilterStepPerformsTheOperationOfTheMode : Prop :=
  ∀ s : State, s.Live →
    (s.dec.mode = 0x0 → exec .filter s = exec .fVert1d s) ∧
    (s.dec.mode = 0x2 → exec .filter s = exec .fHedgeVert1d s) ∧
    (s.dec.mode = 0xE → exec .filter s = exec .fLaplace2d s) ∧
    (s.dec.mode = 0x1 → exec .filter s = exec .fZero s) ∧
    (s.dec.mode ∉ [(0x0 : BitVec 4), 0x1, 0x2, 0xE] →
      ∀ i ∈ [Instr.fPass3, .fPass4, .fPass5, .fPass6, .fPass7, .fPass8, .fPass9, .fPassA, .fPassB, .fPassC, .fPassD, .fPassF],
        exec .filter s = exec i s) ∧
    Completes (exec .filter s) fun t =>
      t.phase = .quantize ∧ t.status = s.status ∧ SameConfig s t ∧ t.dec = s.dec ∧ t.sf = s.sf ∧ t.qf = s.qf ∧
      (s.dec.mode ≠ 0x2 → t.hf = s.hf) ∧
      SameMemory s t ∧ t.fault = none ∧ t.readData = s.readData ∧ SameOutside s t

/-- The model's reading of R55 (log 18): each filter operation, taken as an instruction, is the whole FILTER step, so it ends with
PHASE = QUANTIZE. -/
def Obligations.FilterOperationsEndTheFilterStep : Prop :=
  ∀ (m : BitVec 4) (s : State), s.Live → Completes (exec (decodeMode m) s) fun t => t.phase = .quantize

/-- R61: the default EDGE_ROUND truncates toward zero; every EDGE_ROUND a core can have is exact on multiples of 4; and where
4·gain is a multiple of 4 the choice does not matter, among the conversions that are exact there. (R61's closing remark counts EGAIN = 3, gain 1.25, among these; the
arithmetic does not, log 29.) -/
def Obligations.EdgeRoundMattersOnlyForFractionalGains : Prop :=
  (∀ s : State, s.params.edgeRound = .truncate →
    ∀ T : Int, s.edgeRound T = if 0 ≤ T then T / 4 else -(-T / 4)) ∧
  (∀ (s : State) (k : Int), s.edgeRound (4 * k) = k) ∧
  (∀ (er er' : Int → Int) (d : Dec) (sf : Plane Int 120),
    (∀ k, er (4 * k) = k) → (∀ k, er' (4 * k) = k) → d.gain4.toNat % 4 = 0 → filterPlane er d sf = filterPlane er' d sf)

/-- R66: the ranges of the filter's sums, for samples in the range of SF (or, for the second pass of mode 0x2, of HF) and
GAIN4 at most 20. -/
def Obligations.FilterSumsStayInTheirRanges : Prop :=
  ∀ (a h : Plane Int 120) (p m : BitVec 2) (g : BitVec 5) (y : Fin 120) (x : Fin 128),
    InRange (-128) 127 a → InRange 0 255 h → g.toNat ≤ 20 →
      (-256 ≤ vertSum a p m y x ∧ vertSum a p m y x ≤ 256) ∧
      (-510 ≤ vertSum h p m y x ∧ vertSum h p m y x ≤ 510) ∧
      (let edge := 2 * a.at y x - a.at y (colLeft x) - a.at y (colRight x);
        -510 ≤ edge ∧ edge ≤ 510) ∧
      (let edge := 4 * a.at y x - a.at (rowAbove y) x - a.at (rowBelow y) x - a.at y (colRight x) - a.at y (colLeft x);
        -1020 ≤ edge ∧ edge ≤ 1020) ∧
      (-10712 ≤ hedgeSum a g y x ∧ hedgeSum a g y x ≤ 10708) ∧
      (-20912 ≤ laplaceSum a g y x ∧ laplaceSum a g y x ≤ 20908)

/-! ## The quantizer -/

/-- R67 to R70: the QUANTIZE step crops, selects the cell and takes the strict cascade for every visible pixel. -/
def Obligations.QuantizeTakesTheStrictCascade : Prop :=
  ∀ s : State, s.Live → Completes (exec .quantize s) fun t =>
    (∀ (y : Fin 112) (x : Fin 128),
      let u := s.ff.at (Fin.ofNat 120 (y.val + 4)) x + 128
      let c := 4 * (y.val % 4) + x.val % 4
      let t0 := ((s.thr (Fin.ofNat 48 (3 * c))).toNat : Int)
      let t1 := ((s.thr (Fin.ofNat 48 (3 * c + 1))).toNat : Int)
      let t2 := ((s.thr (Fin.ofNat 48 (3 * c + 2))).toNat : Int)
      levelByte (t.qf.at y x) = if u < t0 then 0x00 else if u < t1 then 0x40 else if u < t2 then 0x80 else 0xC0) ∧
    t.phase = .pack ∧ t.status = s.status ∧ SameConfig s t ∧
    t.dec = s.dec ∧ t.sf = s.sf ∧ t.hf = s.hf ∧ t.ff = s.ff ∧
    SameMemory s t ∧ t.fault = none ∧ t.readData = s.readData ∧ SameOutside s t

/-! ## The packer -/

/-- R72, R94: the PACK step writes all 4096 bytes of OUT with what R72's loop computes, clears BUSY, sets DONE, keeps MODE and
WARN and goes to IDLE, all in one step; every byte of memory outside OUT is unchanged. -/
def Obligations.PackWritesTheLoopsBytesAndCompletes : Prop :=
  ∀ s : State, s.Live → Completes (exec .pack s) fun t =>
    (∀ i : Fin 4096, t.out i = (packPlane s.qf)[i]) ∧
    (∀ a, a < 0x8000 ∨ 0x9000 ≤ a → t.mem.read a = s.mem.read a) ∧
    t.phase = .idle ∧ t.status.busy = false ∧ t.status.done = true ∧
    t.status.mode = s.status.mode ∧ t.status.warn = s.status.warn ∧
    SameConfig s t ∧ SameHidden s t ∧ t.fault = none ∧ t.readData = s.readData ∧ SameOutside s t

/-- R78: the bytes of R72's loop in closed form, the zero tail, the inverse map from OUT back to QF, and that (pixel, plane) to
(byte, bit) is a bijection onto the bits of OUT[0..3583]. -/
def Obligations.PackedBytesHaveTheClosedFormAndItsInverse : Prop :=
  ∀ qf : Plane Level 112,
    (∀ i : Fin 4096, 3584 ≤ i.val → (packPlane qf)[i] = 0x00) ∧
    (∀ i : Fin 4096, i.val < 3584 → ∀ c < 8,
      let tile := i.val / 16
      let r := i.val % 16 / 2
      let p := i.val % 2
      let l := levelByte (qf.at (Fin.ofNat 112 (8 * (tile / 16) + r)) (Fin.ofNat 128 (8 * (tile % 16) + c)))
      (packPlane qf)[i].getLsbD (7 - c) = (3 - l.toNat / 64).testBit p) ∧
    (∀ (y : Fin 112) (x : Fin 128),
      let b := 16 * (16 * (y.val / 8) + x.val / 8) + 2 * (y.val % 8)
      let k := 7 - x.val % 8
      let low := ((packPlane qf)[Fin.ofNat 4096 b].getLsbD k).toNat
      let high := ((packPlane qf)[Fin.ofNat 4096 (b + 1)].getLsbD k).toNat
      (levelByte (qf.at y x)).toNat = (3 - (2 * high + low)) * 64) ∧
    (∀ i < 3584, ∀ k < 8, ∃ (y : Fin 112) (x : Fin 128) (p : Fin 2),
      (16 * (16 * (y.val / 8) + x.val / 8) + 2 * (y.val % 8) + p.val = i ∧ 7 - x.val % 8 = k) ∧
      ∀ (y' : Fin 112) (x' : Fin 128) (p' : Fin 2),
        16 * (16 * (y'.val / 8) + x'.val / 8) + 2 * (y'.val % 8) + p'.val = i → 7 - x'.val % 8 = k →
          y' = y ∧ x' = x ∧ p' = p)

/-! ## Host operations -/

/-- R79: REG_WR stores the byte while idle and nothing else; while BUSY it faults. -/
def Obligations.RegisterWriteStoresUnlessBusy : Prop :=
  ∀ (s : State) (i : Fin 6) (v : Byte),
    (s.Idle → Completes (exec (.regWr i v) s) fun t =>
      (∀ j, t.reg j = if j = i then v else s.reg j) ∧ t.matrix = s.matrix ∧ SameControl s t ∧ SameHidden s t ∧
      SameMemory s t ∧ t.fault = none ∧ t.readData = s.readData ∧ SameOutside s t) ∧
    (s.Busy → FaultsWith (exec (.regWr i v) s) s .writeBusy (htw true (BitVec.ofNat 16 i.val) v) (some s.phase))

/-- R81: MTX_WR stores the byte while idle and nothing else; while BUSY it faults. -/
def Obligations.ThresholdWriteStoresUnlessBusy : Prop :=
  ∀ (s : State) (k : Fin 48) (v : Byte),
    (s.Idle → Completes (exec (.mtxWr k v) s) fun t =>
      (∀ j, t.thr j = if j = k then v else s.thr j) ∧ t.regs = s.regs ∧ SameControl s t ∧ SameHidden s t ∧
      SameMemory s t ∧ t.fault = none ∧ t.readData = s.readData ∧ SameOutside s t) ∧
    (s.Busy → FaultsWith (exec (.mtxWr k v) s) s .writeBusy (htw true (BitVec.ofNat 16 (6 + k.val)) v) (some s.phase))

/-- R87: FRAME_WR stores the byte at 0x4000 + 128·y + x while idle, and every other byte of memory is unchanged; while BUSY it
faults. That memory is canonical is an invariant (StepKeepsMemoryCanonical). -/
def Obligations.FrameWriteStoresUnlessBusy : Prop :=
  ∀ (s : State) (y : Fin 120) (x : Fin 128) (v : Byte),
    (s.Idle → s.mem.wf → Completes (exec (.frameWr y x v) s) fun t =>
      t.frame y x = v ∧ SameMemoryBut (0x4000 + 128 * y.val + x.val) s t ∧ SameConfig s t ∧ SameControl s t ∧
      SameHidden s t ∧ t.fault = none ∧ t.readData = s.readData ∧ SameOutside s t) ∧
    (s.Busy →
      FaultsWith (exec (.frameWr y x v) s) s .writeBusy (htw true (BitVec.ofNat 16 (0x4000 + 128 * y.val + x.val)) v)
        (some s.phase))

/-- R80, R82, R84, R85, R88: the reads that are allowed in any phase return the stored byte (0x00 for CTRL, the assembled
byte for STATUS) and have no side effect. -/
def Obligations.ReadsReturnTheStoredByte : Prop :=
  ∀ (s : State) (d : Byte), s.Live →
    (∀ i : Fin 6, Completes (exec (.regRd i d) s) fun t =>
      t.readData = some (s.reg i) ∧ SameCore s t ∧ t.fault = none ∧ SameOutside s t) ∧
    (∀ k : Fin 48, Completes (exec (.mtxRd k d) s) fun t =>
      t.readData = some (s.thr k) ∧ SameCore s t ∧ t.fault = none ∧ SameOutside s t) ∧
    (∀ (y : Fin 120) (x : Fin 128), Completes (exec (.frameRd y x d) s) fun t =>
      t.readData = some (s.mem.read (0x4000 + 128 * y.val + x.val)) ∧ SameCore s t ∧ t.fault = none ∧ SameOutside s t) ∧
    (Completes (exec (.ctrlRd d) s) fun t => t.readData = some 0x00 ∧ SameCore s t ∧ t.fault = none ∧ SameOutside s t) ∧
    (Completes (exec (.statusRd d) s) fun t =>
      (∃ b : Byte, t.readData = some b ∧ b.toNat = 16 * s.status.mode.toNat + 4 * s.status.warn.toNat
        + 2 * s.status.done.toNat + s.status.busy.toNat) ∧ SameCore s t ∧ t.fault = none ∧ SameOutside s t)

/-- R89: OUT_RD returns OUT[i], the byte at 0x8000 + i, while idle; while BUSY it faults. -/
def Obligations.OutputReadReturnsTheByteUnlessBusy : Prop :=
  ∀ (s : State) (i : Fin 4096) (d : Byte),
    (s.Idle → Completes (exec (.outRd i d) s) fun t =>
      t.readData = some (s.mem.read (0x8000 + i.val)) ∧ SameCore s t ∧ t.fault = none ∧ SameOutside s t) ∧
    (s.Busy → FaultsWith (exec (.outRd i d) s) s .readBusy (htw false (BitVec.ofNat 16 (0x8000 + i.val)) d) (some s.phase))

/-- R83: CTRL_WR with bit 0 clear does nothing, even while BUSY; START while idle decodes the registers, sets STATUS and goes
to FRONTEND; START while BUSY faults. -/
def Obligations.ControlWriteStartsAnInvocation : Prop :=
  ∀ (s : State) (v : Byte),
    (s.Live → v.getLsbD 0 = false → exec (.ctrlWr v) s = .next s) ∧
    (s.Idle → v.getLsbD 0 = true → Completes (exec (.ctrlWr v) s) fun t =>
      t.dec = decodeRegs s.regs ∧ t.status.mode = t.dec.mode ∧
      (t.status.warn = true ↔ t.dec.mode ∉ [(0x0 : BitVec 4), 0x1, 0x2, 0xE]) ∧
      t.status.done = false ∧ t.status.busy = true ∧ t.phase = .frontend ∧
      SameConfig s t ∧ t.sf = s.sf ∧ t.hf = s.hf ∧ t.ff = s.ff ∧ t.qf = s.qf ∧ SameMemory s t ∧
      t.fault = none ∧ t.readData = s.readData ∧ SameOutside s t) ∧
    (s.Busy → v.getLsbD 0 = true → FaultsWith (exec (.ctrlWr v) s) s .startBusy (htw true 0x0036 v) (some s.phase))

/-- R86, R90, R91, R92: a write of STATUS or of OUT raises F_WRITE_RO and any access to a reserved address F_RESERVED, busy or
not; the state is otherwise unchanged, and the record holds the code and the transaction word. -/
def Obligations.ForbiddenAccessesAlwaysFault : Prop :=
  ∀ (s : State) (d : Byte), s.Live →
    FaultsWith (exec (.statusWr d) s) s .writeRo (htw true 0x0037 d) none ∧
    (∀ i : Fin 4096, FaultsWith (exec (.outWr i d) s) s .writeRo (htw true (BitVec.ofNat 16 (0x8000 + i.val)) d) none) ∧
    (∀ a : Addr, reservedAddr a = true →
      FaultsWith (exec (.rsvRd a d) s) s .reserved (htw false a d) none ∧
      FaultsWith (exec (.rsvWr a d) s) s .reserved (htw true a d) none)

/-! ## Faults -/

/-- R100: which fault, if any, a transaction raises in a state without one, by address, RW, BUSY and bit 0 of the data:
reserved first, then read-only, then the BUSY faults. -/
def Obligations.EachTransactionRaisesTheFaultOfHighestPriority : Prop :=
  ∀ (s t : State) (rw : Bool) (a : Addr) (d : Byte), s.Live → exec (decodeHtw (htw rw a d)) s = .next t →
    let n := a.toNat
    t.fault.map (·.code) =
      if (0x0038 ≤ n ∧ n ≤ 0x3FFF) ∨ (0x7C00 ≤ n ∧ n ≤ 0x7FFF) ∨ 0x9000 ≤ n then some .reserved
      else if rw = true ∧ (n = 0x0037 ∨ 0x8000 ≤ n) then some .writeRo
      else if s.status.busy = true ∧ rw = true ∧ (n ≤ 0x0035 ∨ 0x4000 ≤ n) then some .writeBusy
      else if s.status.busy = true ∧ rw = false ∧ 0x8000 ≤ n then some .readBusy
      else if s.status.busy = true ∧ rw = true ∧ n = 0x0036 ∧ d.getLsbD 0 = true then some .startBusy
      else none

/-- R101, R20: fault entry is precise. A transaction that leaves a state without a fault in one with a fault changes nothing
else; the record holds its own word, and PHASE for the BUSY faults (R99). From then on no instruction and no step but
reset leads anywhere, and the state is not final. -/
def Obligations.FaultEntryIsPrecise : Prop :=
  ∀ (s t : State) (w : Htw) (r : FaultRecord), exec (decodeHtw w) s = .next t → t.fault = some r →
    t = { s with fault := some r } ∧ r.htw = w ∧
    (r.code = .reserved ∨ r.code = .writeRo → r.phase = none) ∧
    (r.code = .writeBusy ∨ r.code = .readBusy ∨ r.code = .startBusy → r.phase = some s.phase ∧ s.status.busy = true) ∧
    (∀ i u, exec i t ≠ .next u) ∧ (t.NoResetNext → ∀ u, step t ≠ .next u) ∧ ¬t.Final

/-- R102: no return and no nesting. Once FAULT is set, whatever the state, no instruction and no step leads
anywhere, so that no second fault occurs; the only way out is reset, which clears the mark. -/
def Obligations.FaultedStateIsLeftOnlyByReset : Prop :=
  ∀ (s : State) (r : FaultRecord), s.fault = some r →
    (∀ i u, exec i s ≠ .next u) ∧
    (s.NoResetNext → ∀ u, step s ≠ .next u) ∧
    (∀ d rest, s.order = .reset d :: rest → Completes (step s) fun t => t.fault = none)

/-- R97: no stage and no filter operation raises anything, whatever the state holds; nor does START, which performs DECODE. -/
def Obligations.NoPipelineStageFaults : Prop :=
  (∀ (i : Instr) (s : State), i.format ≠ .htw → s.Live → Completes (exec i s) fun t => t.fault = none) ∧
  ∀ (s : State) (v : Byte), s.Idle → v.getLsbD 0 = true → Completes (exec (.ctrlWr v) s) fun t => t.fault = none

/-! ## Steps -/

/-- A step in which the host moves on a transaction runs exactly the decoded operation, which always completes; a read's byte
is then in the host's variable (R40: `r <- MemRead(a, 1)`). That the host's place is the next statement also where the
transaction faulted is the model's inference (log 21). -/
def Obligations.StepRunsTheHostsTransaction : Prop :=
  ∀ (s : State) (w : Htw) (dst : Option Nat),
    s.Live → s.NoResetNext → s.mover = some .host → s.hostStmt = some (.xfer w dst) →
    (decodeHtw w).wellFormed = true ∧
    Completes (exec (decodeHtw w) s.takeTurn) fun u => Completes (step s) fun t =>
      { t with host := u.host } = u ∧ t.host.script = s.host.script ∧ t.host.pc = s.host.pc + 1 ∧
      (∀ r, dst = some r → w.rw = false → u.fault = none → s.host.vars.wf → some (t.hostVar r) = u.readData) ∧
      (dst = none → t.host.vars = s.host.vars)

/-- R93: the pipeline agent has a step exactly when PHASE ≠ IDLE and FAULT = none; its step is the stage that PHASE names; it
interleaves with the host in any order: where both have a step, either may be named next. -/
def Obligations.StepRunsTheStageThatPhaseNames : Prop :=
  ∀ s : State, s.Live → s.NoResetNext →
    (s.mover = some .pipeline →
      (s.phase = .frontend ∧ step s = exec .frontend s.takeTurn ∧ Completes (step s) fun t => t.phase = .filter) ∨
      (s.phase = .filter ∧ step s = exec .filter s.takeTurn ∧ Completes (step s) fun t => t.phase = .quantize) ∨
      (s.phase = .quantize ∧ step s = exec .quantize s.takeTurn ∧ Completes (step s) fun t => t.phase = .pack) ∨
      (s.phase = .pack ∧ step s = exec .pack s.takeTurn ∧ Completes (step s) fun t => t.phase = .idle)) ∧
    (s.hostReady = false → (s.mover = some .pipeline ↔ s.phase ≠ .idle)) ∧
    (s.hostReady = true → s.phase ≠ .idle → ∀ rest,
      ((s.order = .host :: rest → s.mover = some .host) ∧ (s.order = .pipeline :: rest → s.mover = some .pipeline)))

/-- R40: BRB goes to the label if the bit is 1 and on otherwise, and moves no byte: the core is unchanged. A taken branch to a
label that stands nowhere is refused by name (the model's choice, log 24). -/
def Obligations.BranchChangesOnlyTheHostsPlace : Prop :=
  ∀ (s : State) (r : Nat) (n : Fin 8) (l : Nat),
    s.Live → s.NoResetNext → s.mover = some .host → s.hostStmt = some (.brb r n l) →
    let taken := (s.host.vars.read r).getLsbD n.val
    (taken = false → step s = .next { s.takeTurn with host := { s.host with pc := s.host.pc + 1 } }) ∧
    (taken = true → ∀ pc, findLabel l s.host.script = some pc →
      step s = .next { s.takeTurn with host := { s.host with pc := pc } }) ∧
    (taken = true → findLabel l s.host.script = none → step s = .refused (.noLabel l))

/-- R40: a label is no transaction. A step of the host on it goes to the next statement and changes nothing of the core; that it
takes a step of its own is the model's choice (log 33). -/
def Obligations.LabelMovesTheHostToTheNextStatement : Prop :=
  ∀ (s : State) (l : Nat), s.Live → s.NoResetNext → s.mover = some .host → s.hostStmt = some (.label l) →
    step s = .next { s.takeTurn with host := { s.host with pc := s.host.pc + 1 } }

/-- Where neither agent has a step the model stops by name, its own choice: in a final state (R95) with the refusal noStep
(log 20), in a faulted one (R101) with the fault `halted` and the code (log 14). -/
def Obligations.WithoutAStepTheModelStopsByName : Prop :=
  ∀ s : State,
    (s.NoResetNext → s.Final → step s = .refused .noStep) ∧
    (∀ r, s.fault = some r →
      (∀ i, exec i s = .fault (.halted r.code)) ∧ (s.NoResetNext → step s = .fault (.halted r.code)))

/-- R109, R21: reset in any state, also BUSY or faulted: STATUS reads 0x00, PHASE is IDLE, FAULT none, and every byte of REG,
MATRIX, FRAME and OUT holds the draw. The draw's cells are canonical and lie in FRAME and OUT. -/
def Obligations.ResetLeavesTheDrawAndAnIdleCore : Prop :=
  ∀ (s : State) (d : ResetDraw) (rest : List Event), s.order = .reset d :: rest →
    Memory.wf d.mem → (∀ c ∈ d.mem, inMap c.1 = true) →
    Completes (step s) fun t =>
      t.Idle ∧ statusByte t.status = 0x00 ∧ t.phase = .idle ∧ t.regs = d.regs ∧ t.matrix = d.matrix ∧
      (∀ a, t.mem.read a = Memory.read d.mem a) ∧ t.dec = d.dec ∧ t.qf = d.qf ∧
      (InRange (-128) 127 d.sf → t.sf = d.sf) ∧ (InRange 0 255 d.hf → t.hf = d.hf) ∧
      (InRange (-128) 127 d.ff → t.ff = d.ff)

/-- The model's choice (log 22): reset leaves alone what is outside the core, the host, the rest of the order of events and the
parameters; and no byte is returned. -/
def Obligations.ResetTouchesOnlyTheCore : Prop :=
  ∀ (s : State) (d : ResetDraw) (rest : List Event), s.order = .reset d :: rest →
    Completes (step s) fun t =>
      t.host = s.host ∧ t.order = rest ∧ t.params = s.params ∧ t.tick = s.tick + 1 ∧ t.wait = s.wait ∧ t.readData = none

/-- R21, the values the spec gives: right after reset STATUS is 0x00, PHASE IDLE and FAULT none, so that the core is idle. -/
def Obligations.ResetStateIsIdle : Prop :=
  State.reset.Idle ∧ statusByte State.reset.status = 0x00 ∧ State.reset.phase = .idle ∧
  State.reset.MemoryInv ∧ State.reset.ControlInv ∧ State.reset.SampleInv ∧ State.reset.InvocationInv

/-! ## Whole-machine rules -/

/-- 46_host_operations.md, "Common to every host operation": no host operation changes PHASE except START, and none writes
OUT. -/
def Obligations.HostOperationsLeavePhaseAndOutput : Prop :=
  ∀ (s t : State) (w : Htw), exec (decodeHtw w) s = .next t →
    (t.phase = s.phase ∨ ∃ v : Byte, decodeHtw w = .ctrlWr v ∧ v.getLsbD 0 = true ∧ s.status.busy = false ∧ t.phase = .frontend) ∧
    ∀ i, t.out i = s.out i

/-- R14: no step writes STATUS except START and the completion of PACK (and reset). -/
def Obligations.StatusIsWrittenOnlyByStartAndCompletion : Prop :=
  ∀ s t : State, s.NoResetNext → step s = .next t →
    t.status = s.status ∨
    (∃ (w : Htw) (dst : Option Nat) (v : Byte), s.mover = some .host ∧ s.hostStmt = some (.xfer w dst) ∧
      decodeHtw w = .ctrlWr v ∧ v.getLsbD 0 = true ∧ s.status.busy = false ∧
      t.status = statusStart (decodeRegs s.regs)) ∨
    (s.mover = some .pipeline ∧ s.phase = .pack ∧ t.status = { s.status with busy := false, done := true })

/-- R33: while BUSY no step but reset changes REG, MATRIX or FRAME, whoever moves. The premise ties BUSY to PHASE
(StepKeepsControlLegal). -/
def Obligations.ConfigurationIsFixedWhileBusy : Prop :=
  ∀ s t : State, s.NoResetNext → s.ControlInv → s.status.busy = true → step s = .next t →
    t.regs = s.regs ∧ t.matrix = s.matrix ∧ ∀ y x, t.frame y x = s.frame y x

/-- R16: only the PACK step (or reset) writes OUT. -/
def Obligations.OnlyPackWritesOutput : Prop :=
  ∀ s t : State, s.NoResetNext → step s = .next t → (∃ i, t.out i ≠ s.out i) → s.mover = some .pipeline ∧ s.phase = .pack

/-- R28, R30, R23: a byte written to a writable address is what a read of that address returns next, and every other
readable address still returns what it returned before. -/
def Obligations.HostReadSeesTheLatestWrite : Prop :=
  ∀ (s : State) (a : Addr) (v : Byte), s.Idle → s.mem.wf →
    a.toNat ≤ 0x0035 ∨ (0x4000 ≤ a.toNat ∧ a.toNat ≤ 0x7BFF) →
    Completes (exec (decodeHtw (htw true a v)) s) fun t =>
      (Completes (exec (decodeHtw (htw false a 0)) t) fun u => u.readData = some v) ∧
      ∀ a' : Addr, a' ≠ a → reservedAddr a' = false →
        Completes (exec (decodeHtw (htw false a' 0)) s) fun r =>
          Completes (exec (decodeHtw (htw false a' 0)) t) fun u => u.readData = r.readData

/-! ## Invariants -/

/-- Every step keeps memory canonical and inside FRAME and OUT, and the host's variables canonical. -/
def Obligations.StepKeepsMemoryCanonical : Prop :=
  ∀ s t : State, s.MemoryInv → step s = .next t → t.MemoryInv

/-- Every step keeps the control state legal: BUSY = 1 exactly when PHASE ≠ IDLE (R17), not BUSY and DONE together, WARN as
MODE says (R14). -/
def Obligations.StepKeepsControlLegal : Prop :=
  ∀ s t : State, s.ControlInv → step s = .next t → t.ControlInv

/-- Every step keeps every hidden sample in the range R19 gives its buffer, whatever EDGE_ROUND the core has. -/
def Obligations.StepKeepsSamplesInRange : Prop :=
  ∀ s t : State, s.SampleInv → step s = .next t → t.SampleInv

/-- Every step, of either agent and in any interleaving, keeps the invocation in progress on the course of PIPELINE: the latch
holds the decoded registers, and the buffer the last stage wrote is PIPELINE's on the present FRAME, REG and MATRIX. -/
def Obligations.StepKeepsTheInvocationOnCourse : Prop :=
  ∀ s t : State, s.ControlInv → s.InvocationInv → step s = .next t → t.InvocationInv

/-- R32 (b), R94, R96: the step that clears BUSY writes all of OUT with PIPELINE of FRAME, REG and MATRIX. The premises are the
two invariants above. -/
def Obligations.TheStepThatClearsBusyDeliversThePipelinesOutput : Prop :=
  ∀ s t : State, s.NoResetNext → s.ControlInv → s.InvocationInv → s.status.busy = true → step s = .next t →
    t.status.busy = false →
    s.phase = .pack ∧ t.status.done = true ∧
    ∀ i : Fin 4096, t.out i = (pipeline s.edgeRound s.frame s.regs s.matrix)[i]

/-- R96: from any idle state START and the four stages leave OUT = PIPELINE(FRAME, REG, MATRIX), with REG, MATRIX and FRAME
unchanged (R95). The entry point for inputs of any size refuses exactly those of wrong size; that the model offers one, and
the form of its refusal, are its choice (log 31). -/
def Obligations.InvocationComputesThePipelineFunction : Prop :=
  (∀ (s : State) (v : Byte), s.Idle → v.getLsbD 0 = true →
    Completes (exec (.ctrlWr v) s) fun s1 => Completes (exec .frontend s1) fun s2 => Completes (exec .filter s2) fun s3 =>
      Completes (exec .quantize s3) fun s4 => Completes (exec .pack s4) fun t =>
        (∀ i : Fin 4096, t.out i = (pipeline s.edgeRound s.frame s.regs s.matrix)[i]) ∧
        t.status.mode = (decodeRegs s.regs).mode ∧ t.status.done = true ∧ t.Idle ∧ t.phase = .idle ∧
        SameConfig s t ∧ ∀ y x, t.frame y x = s.frame y x) ∧
  (∀ (er : Int → Int) (frame : List (List Byte)) (block : List Byte),
    (frame.length = 120 ∧ (∀ row ∈ frame, row.length = 128) ∧ block.length = 54 →
      ∃ f r m, (∀ (y : Fin 120) (x : Fin 128) (row : List Byte), frame[y.val]? = some row → row[x.val]? = some (f y x)) ∧
        (∀ i : Fin 6, block[i.val]? = some r[i]) ∧ (∀ k : Fin 48, block[6 + k.val]? = some m[k]) ∧
        pipelineEntry er frame block = .ok (pipeline er f r m)) ∧
    (¬(frame.length = 120 ∧ (∀ row ∈ frame, row.length = 128) ∧ block.length = 54) →
      pipelineEntry er frame block = .error (.dimension (frame.map List.length) block.length)))

/-- R93, R113: with no host statement left and no reset to come, an invocation completes in four steps, whatever the order
says: PHASE goes 1, 2, 3, 4, 0. -/
def Obligations.InvocationCompletesInFourSteps : Prop :=
  ∀ s : State, s.Live → s.hostReady = false → s.phase = .frontend → s.NoResetAhead →
    ∃ t, core.run 4 s = .next t ∧ t.Final ∧ t.status.busy = false ∧ t.status.done = true ∧
      t.status.mode = s.status.mode ∧ t.status.warn = s.status.warn ∧ SameConfig s t ∧ ∀ y x, t.frame y x = s.frame y x

/-! ## Weak fairness

R113 assumes it; that the model has it by a free, finite wait is its own choice of form (log 3). The premise ControlInv is an
invariant (StepKeepsControlLegal): without it a state with BUSY 0 could start again and again. -/

/-- R113: while the pipeline agent has a step, it eventually takes it: in every run without a reset it comes to move, with PHASE
as it was, unless the host first stops the run by a fault or by a branch to no label. -/
def Obligations.PipelineAgentIsWeaklyFair : Prop :=
  ∀ s : State, s.Live → s.ControlInv → s.phase ≠ .idle → s.NoResetAhead →
    (Reaches s fun t => t.Live ∧ t.phase = s.phase ∧ t.NoResetNext ∧ t.mover = some .pipeline) ∨ HostStopsWhileBusy s

/-- R113: every invocation completes, whatever the host does meanwhile and however the agents interleave, unless the host first
stops the run; OUT is then PIPELINE of FRAME, REG and MATRIX (R96) where the invocation is on course
(StepKeepsTheInvocationOnCourse). -/
def Obligations.EveryInvocationCompletes : Prop :=
  ∀ s : State, s.Live → s.ControlInv → s.phase ≠ .idle → s.NoResetAhead →
    (Reaches s fun t => t.Live ∧ t.phase = .idle ∧ t.status = { s.status with busy := false, done := true } ∧
      SameConfig s t ∧ (∀ y x, t.frame y x = s.frame y x) ∧
      (s.InvocationInv → ∀ i : Fin 4096, t.out i = (pipeline s.edgeRound s.frame s.regs s.matrix)[i])) ∨
    HostStopsWhileBusy s

/-- R113, R40: a WAIT loop ends. Where the host stands at a WAIT, idle or busy, it comes to the statement after it with the core
idle, BUSY 0 and no fault; and DONE is 1 if the core was busy. -/
def Obligations.WaitLoopEnds : Prop :=
  ∀ (s : State) (lw st : Nat), s.Live → s.ControlInv → s.host.vars.wf → s.NoResetAhead → s.AtWait lw st →
    Reaches s fun t => t.Idle ∧ t.phase = .idle ∧ (s.phase ≠ .idle → t.status.done = true) ∧
      t.host.script = s.host.script ∧ t.host.pc = s.host.pc + 3 ∧ SameConfig s t ∧ ∀ y x, t.frame y x = s.frame y x
end

