-- ==== Sys2Proof/Laws/Decode.lean ====
section
/-! SUPPORT. The fields of a transaction word, the host addresses as numbers, and which access each address range names. -/

namespace Sys2Proof

/-- A transaction word as a number (R35). -/
theorem htw_toNat (rw' : Bool) (a : Addr) (d : Byte) :
    (htw rw' a d).toNat = rw'.toNat * 16777216 + a.toNat * 256 + d.toNat := by
  have h1 := BitVec.toNat_append (BitVec.ofBool rw' ++ a) d
  have h2 := BitVec.toNat_append (BitVec.ofBool rw') a
  have hd := d.isLt
  have ha := a.isLt
  rw [h2, Nat.shiftLeft_eq, Nat.shiftLeft_eq, ← Nat.shiftLeft_eq, ← Nat.shiftLeft_eq,
    ← Nat.shiftLeft_add_eq_or_of_lt ha, ← Nat.shiftLeft_add_eq_or_of_lt hd] at h1
  simp only [Nat.shiftLeft_eq, BitVec.toNat_ofBool] at h1
  show BitVec.toNat (BitVec.ofBool rw' ++ a ++ d) = _
  rw [h1]; omega

/-- RW is bit 24. -/
theorem rw_eq (w : Htw) : w.rw = decide (16777216 ≤ w.toNat) := by
  have := w.isLt
  rw [Htw.rw, BitVec.getLsbD, Nat.testBit_eq_decide_div_mod_eq, decide_eq_decide]
  omega

/-- ADDR is bits 23:8. -/
theorem addr_toNat (w : Htw) : w.addr.toNat = w.toNat / 256 % 65536 := by
  simp [Htw.addr, Nat.shiftRight_eq_div_pow]

/-- DATA is bits 7:0. -/
theorem data_toNat (w : Htw) : w.data.toNat = w.toNat % 256 := by
  simp [Htw.data]

@[simp] theorem htw_rw (rw' : Bool) (a : Addr) (d : Byte) : (htw rw' a d).rw = rw' := by
  have := d.isLt
  have := a.isLt
  rw [rw_eq, htw_toNat]
  cases rw' <;> simp <;> omega

@[simp] theorem htw_addr (rw' : Bool) (a : Addr) (d : Byte) : (htw rw' a d).addr = a := by
  have := d.isLt
  have := a.isLt
  apply BitVec.eq_of_toNat_eq
  rw [addr_toNat, htw_toNat]
  omega

@[simp] theorem htw_data (rw' : Bool) (a : Addr) (d : Byte) : (htw rw' a d).data = d := by
  have := d.isLt
  apply BitVec.eq_of_toNat_eq
  rw [data_toNat, htw_toNat]
  omega

/-- A transaction word is its three fields (R35). -/
theorem htw_fields (w : Htw) : htw w.rw w.addr w.data = w := by
  have := w.isLt
  apply BitVec.eq_of_toNat_eq
  rw [htw_toNat, rw_eq, addr_toNat, data_toNat]
  by_cases h : 16777216 ≤ w.toNat <;> simp [h] <;> omega

@[simp] theorem regAddr_toNat (i : Fin 6) : (regAddr i).toNat = i.val := by
  simp [regAddr, BitVec.toNat_ofNat]; omega

@[simp] theorem mtxAddr_toNat (k : Fin 48) : (mtxAddr k).toNat = 6 + k.val := by
  simp [mtxAddr, BitVec.toNat_ofNat]; omega

@[simp] theorem frameAddr_toNat (y : Fin 120) (x : Fin 128) : (frameAddr y x).toNat = 0x4000 + 128 * y.val + x.val := by
  simp [frameAddr, BitVec.toNat_ofNat]; omega

@[simp] theorem outAddr_toNat (i : Fin 4096) : (outAddr i).toNat = 0x8000 + i.val := by
  simp [outAddr, BitVec.toNat_ofNat]; omega

/-- Two samples of FRAME share an address only if they are one sample (20_memory.md R24). -/
theorem frameAddr_inj {y y' : Fin 120} {x x' : Fin 128} (h : (frameAddr y x).toNat = (frameAddr y' x').toNat) :
    y = y' ∧ x = x' := by
  simp only [frameAddr_toNat] at h
  constructor <;> ext <;> omega

/-- Every instruction a transaction word names is a well-formed host operation (R36). -/
theorem decodeAccess_spec (rw' : Bool) (a : Addr) (d : Byte) :
    (decodeAccess rw' a d).format = .htw ∧ (decodeAccess rw' a d).wellFormed = true := by
  unfold decodeAccess
  split_ifs with h1 _ h2 _ h3 _ h4 _ h5 _ h6 _ <;>
    first
    | exact ⟨rfl, rfl⟩
    | (refine ⟨rfl, ?_⟩
       simp only [Instr.wellFormed, reservedAddr, Bool.or_eq_true, Bool.and_eq_true, decide_eq_true_eq]
       omega)

/-! ## The access that each address range names -/

theorem decodeHtw_htw (rw' : Bool) (a : Addr) (d : Byte) : decodeHtw (htw rw' a d) = decodeAccess rw' a d := by
  simp [decodeHtw]

theorem decodeAccess_reg {rw' : Bool} {a : Addr} {d : Byte} {i : Fin 6} (h : a.toNat = i.val) :
    decodeAccess rw' a d = if rw' then .regWr i d else .regRd i d := by
  have hlt : a.toNat < 6 := by omega
  have e : (⟨a.toNat, hlt⟩ : Fin 6) = i := Fin.ext h
  unfold decodeAccess
  rw [dif_pos hlt, e]

theorem decodeAccess_mtx {rw' : Bool} {a : Addr} {d : Byte} {k : Fin 48} (h : a.toNat = 6 + k.val) :
    decodeAccess rw' a d = if rw' then .mtxWr k d else .mtxRd k d := by
  have hlt : a.toNat < 0x36 := by omega
  have e : (⟨a.toNat - 6, by omega⟩ : Fin 48) = k := Fin.ext (by show a.toNat - 6 = k.val; omega)
  unfold decodeAccess
  rw [dif_neg (by omega), dif_pos hlt, e]

theorem decodeAccess_ctrl {rw' : Bool} {a : Addr} {d : Byte} (h : a.toNat = 0x36) :
    decodeAccess rw' a d = if rw' then .ctrlWr d else .ctrlRd d := by
  unfold decodeAccess
  rw [dif_neg (by omega), dif_neg (by omega), if_pos h]

theorem decodeAccess_status {rw' : Bool} {a : Addr} {d : Byte} (h : a.toNat = 0x37) :
    decodeAccess rw' a d = if rw' then .statusWr d else .statusRd d := by
  unfold decodeAccess
  rw [dif_neg (by omega), dif_neg (by omega), if_neg (by omega), if_pos h]

theorem decodeAccess_frame {rw' : Bool} {a : Addr} {d : Byte} {y : Fin 120} {x : Fin 128}
    (h : a.toNat = 0x4000 + 128 * y.val + x.val) :
    decodeAccess rw' a d = if rw' then .frameWr y x d else .frameRd y x d := by
  have hr : 0x4000 ≤ a.toNat ∧ a.toNat < 0x7C00 := by omega
  have ey : (⟨(a.toNat - 0x4000) / 128, by omega⟩ : Fin 120) = y :=
    Fin.ext (by show (a.toNat - 0x4000) / 128 = y.val; omega)
  have ex : (⟨(a.toNat - 0x4000) % 128, by omega⟩ : Fin 128) = x :=
    Fin.ext (by show (a.toNat - 0x4000) % 128 = x.val; omega)
  unfold decodeAccess
  rw [dif_neg (by omega), dif_neg (by omega), if_neg (by omega), if_neg (by omega), dif_pos hr, ey, ex]

theorem decodeAccess_out {rw' : Bool} {a : Addr} {d : Byte} {i : Fin 4096} (h : a.toNat = 0x8000 + i.val) :
    decodeAccess rw' a d = if rw' then .outWr i d else .outRd i d := by
  have hr : 0x8000 ≤ a.toNat ∧ a.toNat < 0x9000 := by omega
  have e : (⟨a.toNat - 0x8000, by omega⟩ : Fin 4096) = i := Fin.ext (by show a.toNat - 0x8000 = i.val; omega)
  unfold decodeAccess
  rw [dif_neg (by omega), dif_neg (by omega), if_neg (by omega), if_neg (by omega), dif_neg (by omega), dif_pos hr, e]

theorem decodeAccess_rsv {rw' : Bool} {a : Addr} {d : Byte} (h : reservedAddr a = true) :
    decodeAccess rw' a d = if rw' then .rsvWr a d else .rsvRd a d := by
  simp only [reservedAddr, Bool.or_eq_true, Bool.and_eq_true, decide_eq_true_eq] at h
  unfold decodeAccess
  rw [dif_neg (by omega), dif_neg (by omega), if_neg (by omega), if_neg (by omega), dif_neg (by omega),
    dif_neg (by omega)]

/-- Every address lies in one of the ranges of 20_memory.md R23. -/
theorem addr_cases (a : Addr) :
    (∃ i : Fin 6, a.toNat = i.val) ∨ (∃ k : Fin 48, a.toNat = 6 + k.val) ∨ a.toNat = 0x36 ∨ a.toNat = 0x37 ∨
      (∃ (y : Fin 120) (x : Fin 128), a.toNat = 0x4000 + 128 * y.val + x.val) ∨
      (∃ i : Fin 4096, a.toNat = 0x8000 + i.val) ∨ reservedAddr a = true := by
  simp only [reservedAddr, Bool.or_eq_true, Bool.and_eq_true, decide_eq_true_eq]
  by_cases h1 : a.toNat < 6
  · exact .inl ⟨⟨_, h1⟩, rfl⟩
  by_cases h2 : a.toNat < 0x36
  · exact .inr (.inl ⟨⟨a.toNat - 6, by omega⟩, by show a.toNat = 6 + (a.toNat - 6); omega⟩)
  by_cases h3 : 0x4000 ≤ a.toNat ∧ a.toNat < 0x7C00
  · exact .inr (.inr (.inr (.inr (.inl ⟨⟨(a.toNat - 0x4000) / 128, by omega⟩, ⟨(a.toNat - 0x4000) % 128, by omega⟩, by
      show a.toNat = 0x4000 + 128 * ((a.toNat - 0x4000) / 128) + (a.toNat - 0x4000) % 128; omega⟩))))
  by_cases h4 : 0x8000 ≤ a.toNat ∧ a.toNat < 0x9000
  · exact .inr (.inr (.inr (.inr (.inr (.inl ⟨⟨a.toNat - 0x8000, by omega⟩, by
      show a.toNat = 0x8000 + (a.toNat - 0x8000); omega⟩)))))
  have := a.isLt
  omega

end Sys2Proof
end

