-- ==== Sys2Proof/Laws/Memory.lean ====
section
/-! SUPPORT. What memory operations do: read after write, and that each keeps the canonical form. -/

namespace Sys2Proof.Machine

@[simp] theorem Memory.read_nil (a : Nat) : Memory.read [] a = 0 := rfl

theorem Memory.read_cons (k : Nat) (b : Byte) (m : Memory) (a : Nat) :
    Memory.read ((k, b) :: m) a = if k = a then b else Memory.read m a := rfl

/-- An address no cell names reads as 0x00. -/
theorem Memory.read_of_not_mem {m : Memory} {a : Nat} (h : ∀ c ∈ m, c.1 ≠ a) : Memory.read m a = 0 := by
  induction m with
  | nil => rfl
  | cons c m ih =>
    rw [show c :: m = (c.1, c.2) :: m from rfl, Memory.read_cons, if_neg (h c (by simp))]
    exact ih fun d hd => h d (by simp [hd])

/-- The tail of canonical memory lies above its head. -/
theorem Memory.wf_cons {k : Nat} {b : Byte} {m : Memory} :
    Memory.wf ((k, b) :: m) ↔ b ≠ 0 ∧ (∀ c ∈ m, k < c.1) ∧ Memory.wf m := by
  simp only [Memory.wf, List.pairwise_cons, List.mem_cons, forall_eq_or_imp]
  tauto

/-- Every cell of a written memory is the written one or was there. -/
theorem Memory.mem_write {m : Memory} {a : Nat} {v : Byte} {c : Host.Cell} (h : c ∈ m.write a v) :
    c = (a, v) ∨ c ∈ m := by
  induction m with
  | nil => simp only [Memory.write] at h; split_ifs at h <;> simp_all
  | cons d m ih =>
    obtain ⟨k, b⟩ := d
    simp only [Memory.write] at h
    split_ifs at h
    all_goals simp only [List.mem_cons] at h ⊢
    all_goals tauto

/-- A write keeps the canonical form. -/
theorem Memory.wf_write {m : Memory} (h : m.wf) (a : Nat) (v : Byte) : (m.write a v).wf := by
  induction m with
  | nil =>
    simp only [Memory.write]
    split_ifs with hv
    · exact ⟨by simp, by simp⟩
    · exact Memory.wf_cons.2 ⟨hv, by simp, by simp, by simp⟩
  | cons d m ih =>
    obtain ⟨k, b⟩ := d
    obtain ⟨hb, hlt, hm⟩ := Memory.wf_cons.1 h
    simp only [Memory.write]
    split_ifs with h1 h2 h2 h3
    · exact h
    · exact Memory.wf_cons.2 ⟨h2, by
        simp only [List.mem_cons, forall_eq_or_imp]
        exact ⟨h1, fun c hc => h1.trans (hlt c hc)⟩, h⟩
    · exact hm
    · exact Memory.wf_cons.2 ⟨h3, fun c hc => h2 ▸ hlt c hc, hm⟩
    · refine Memory.wf_cons.2 ⟨hb, fun c hc => ?_, ih hm⟩
      rcases Memory.mem_write hc with rfl | hc
      · show k < a; omega
      · exact hlt c hc

/-- Reading the written address gives the byte written. -/
@[simp] theorem Memory.read_write_same {m : Memory} (h : m.wf) (a : Nat) (v : Byte) : (m.write a v).read a = v := by
  induction m with
  | nil =>
    simp only [Memory.write]
    split_ifs with hv
    · rw [hv]; rfl
    · rw [Memory.read_cons, if_pos rfl]
  | cons d m ih =>
    obtain ⟨k, b⟩ := d
    obtain ⟨_, hlt, hm⟩ := Memory.wf_cons.1 h
    simp only [Memory.write]
    split_ifs with h1 h2 h2 h3
    · rw [Memory.read_cons, if_neg (by omega), h2]
      exact Memory.read_of_not_mem fun c hc => by have := hlt c hc; omega
    · rw [Memory.read_cons, if_pos rfl]
    · rw [h3]
      exact Memory.read_of_not_mem fun c hc => by have := hlt c hc; omega
    · rw [Memory.read_cons, if_pos rfl]
    · rw [Memory.read_cons, if_neg (by omega), ih hm]

/-- Every other address reads as before. -/
theorem Memory.read_write_other (m : Memory) {a a' : Nat} (v : Byte) (h : a' ≠ a) :
    (m.write a v).read a' = m.read a' := by
  induction m with
  | nil =>
    simp only [Memory.write]
    split_ifs with hv
    · rfl
    · rw [Memory.read_cons, if_neg (Ne.symm h)]
  | cons d m ih =>
    obtain ⟨k, b⟩ := d
    simp only [Memory.write]
    split_ifs with h1 h2 h2 h3
    · rfl
    · rw [Memory.read_cons, if_neg (Ne.symm h)]
    · rw [Memory.read_cons, if_neg (by omega)]
    · rw [Memory.read_cons, Memory.read_cons, if_neg (Ne.symm h), if_neg (by omega)]
    · rw [Memory.read_cons, Memory.read_cons, ih]

/-- A property of addresses that holds of all cells and of the written address holds of all cells afterwards. -/
theorem Memory.forall_write {p : Nat → Prop} {m : Memory} (h : ∀ c ∈ m, p c.1) {a : Nat} (ha : p a) (v : Byte) :
    ∀ c ∈ m.write a v, p c.1 := fun c hc => by
  rcases Memory.mem_write hc with rfl | hc
  · exact ha
  · exact h c hc

/-- A cell of a block: its offset and its byte. -/
theorem Memory.mem_block {base n : Nat} {f : Nat → Byte} {c : Host.Cell} :
    c ∈ Memory.block base n f ↔ ∃ i < n, f i ≠ 0 ∧ c = (base + i, f i) := by
  simp only [Memory.block, List.mem_filterMap, List.mem_range]
  constructor
  · rintro ⟨i, hi, h⟩
    split_ifs at h with h0
    exact ⟨i, hi, h0, (Option.some.inj h).symm⟩
  · rintro ⟨i, hi, h0, rfl⟩
    exact ⟨i, hi, by rw [if_neg h0]⟩

theorem Memory.block_succ (base n : Nat) (f : Nat → Byte) :
    Memory.block base (n + 1) f = Memory.block base n f ++ (if f n = 0 then [] else [(base + n, f n)]) := by
  simp only [Memory.block, List.range_succ, List.filterMap_append, List.filterMap_cons, List.filterMap_nil]
  by_cases h : f n = 0
  · rw [if_pos h, if_pos h]
  · rw [if_neg h, if_neg h]

/-- A block is canonical. -/
theorem Memory.wf_block (base n : Nat) (f : Nat → Byte) : (Memory.block base n f).wf := by
  refine ⟨?_, fun c hc => ?_⟩
  · induction n with
    | zero => simp [Memory.block]
    | succ n ih =>
      rw [Memory.block_succ, List.pairwise_append]
      refine ⟨ih, by split_ifs <;> simp, fun c hc d hd => ?_⟩
      obtain ⟨i, hi, _, rfl⟩ := Memory.mem_block.1 hc
      split_ifs at hd
      · simp at hd
      · simp only [List.mem_singleton] at hd; subst hd; show base + i < base + n; omega
  · obtain ⟨i, _, h0, rfl⟩ := Memory.mem_block.1 hc
    exact h0

/-- Reading past cells that do not name the address. -/
theorem Memory.read_append_of_not_mem {m : Memory} (m' : Memory) {a : Nat} (h : ∀ c ∈ m, c.1 ≠ a) :
    Memory.read (m ++ m') a = Memory.read m' a := by
  induction m with
  | nil => rfl
  | cons c m ih =>
    rw [List.cons_append, show c :: (m ++ m') = (c.1, c.2) :: (m ++ m') from rfl, Memory.read_cons,
      if_neg (h c (by simp)), ih fun d hd => h d (by simp [hd])]

/-- Reading before cells that do not name the address. -/
theorem Memory.read_append_left (m : Memory) {m' : Memory} {a : Nat} (h : ∀ c ∈ m', c.1 ≠ a) :
    Memory.read (m ++ m') a = Memory.read m a := by
  induction m with
  | nil => exact Memory.read_of_not_mem h
  | cons c m ih =>
    rw [List.cons_append, show c :: (m ++ m') = (c.1, c.2) :: (m ++ m') from rfl,
      show c :: m = (c.1, c.2) :: m from rfl, Memory.read_cons, Memory.read_cons, ih]

/-- A byte of a block. -/
theorem Memory.read_block (base n : Nat) (f : Nat → Byte) {i : Nat} (h : i < n) :
    Memory.read (Memory.block base n f) (base + i) = f i := by
  induction n with
  | zero => omega
  | succ n ih =>
    rw [Memory.block_succ]
    by_cases hi : i < n
    · rw [Memory.read_append_left, ih hi]
      intro c hc
      split_ifs at hc
      · simp at hc
      · simp only [List.mem_singleton] at hc; subst hc; show base + n ≠ base + i; omega
    · obtain rfl : i = n := by omega
      rw [Memory.read_append_of_not_mem]
      · split_ifs with h0
        · simp [h0]
        · simp [Memory.read_cons]
      · intro c hc
        obtain ⟨j, hj, _, rfl⟩ := Memory.mem_block.1 hc
        show base + j ≠ base + i; omega

/-- Reading a filtered memory at an address the filter keeps. -/
theorem Memory.read_filter (m : Memory) (p : Nat → Bool) {a : Nat} (h : p a) :
    Memory.read (m.filter fun c => p c.1) a = Memory.read m a := by
  induction m with
  | nil => rfl
  | cons c m ih =>
    rw [show c :: m = (c.1, c.2) :: m from rfl, Memory.read_cons, List.filter_cons]
    by_cases hc : c.1 = a
    · simp [hc, h, Memory.read_cons]
    · rw [if_neg hc]
      split_ifs with hp
      · rw [Memory.read_cons, if_neg hc, ih]
      · exact ih

/-- Inside a range that was set, the new bytes. -/
theorem Memory.read_setRange_in (m : Memory) (base n : Nat) (f : Nat → Byte) {i : Nat} (h : i < n) :
    (m.setRange base n f).read (base + i) = f i := by
  unfold Memory.setRange
  rw [Memory.read_append_left, Memory.read_append_of_not_mem, Memory.read_block _ _ _ h]
  all_goals
    intro c hc
    have := (List.mem_filter.1 hc).2
    simp only [decide_eq_true_eq] at this
    omega

/-- Outside a range that was set, the old bytes. -/
theorem Memory.read_setRange_out (m : Memory) (base n : Nat) (f : Nat → Byte) {a : Nat}
    (h : a < base ∨ base + n ≤ a) : (m.setRange base n f).read a = m.read a := by
  have hblock : ∀ c ∈ Memory.block base n f, c.1 ≠ a := by
    intro c hc
    obtain ⟨i, hi, _, rfl⟩ := Memory.mem_block.1 hc
    show base + i ≠ a; omega
  unfold Memory.setRange
  rcases h with h | h
  · rw [Memory.read_append_left, Memory.read_append_left _ hblock]
    · exact Memory.read_filter m (fun k => decide (k < base)) (by simpa using h)
    · intro c hc
      have := (List.mem_filter.1 hc).2
      simp only [decide_eq_true_eq] at this
      omega
  · rw [Memory.read_append_of_not_mem]
    · exact Memory.read_filter m (fun k => decide (base + n ≤ k)) (by simpa using h)
    · intro c hc
      rcases List.mem_append.1 hc with hc | hc
      · have := (List.mem_filter.1 hc).2
        simp only [decide_eq_true_eq] at this
        omega
      · exact hblock c hc

/-- Setting a range keeps the canonical form. -/
theorem Memory.wf_setRange {m : Memory} (h : m.wf) (base n : Nat) (f : Nat → Byte) : (m.setRange base n f).wf := by
  have hb := Memory.wf_block base n f
  refine ⟨?_, fun c hc => ?_⟩
  · unfold Memory.setRange
    rw [List.pairwise_append, List.pairwise_append]
    refine ⟨⟨h.1.filter _, hb.1, fun c hc d hd => ?_⟩, h.1.filter _, fun c hc d hd => ?_⟩
    · have := (List.mem_filter.1 hc).2
      obtain ⟨i, _, _, rfl⟩ := Memory.mem_block.1 hd
      simp only [decide_eq_true_eq] at this
      show c.1 < base + i; omega
    · have hd := (List.mem_filter.1 hd).2
      simp only [decide_eq_true_eq] at hd
      rcases List.mem_append.1 hc with hc | hc
      · have := (List.mem_filter.1 hc).2
        simp only [decide_eq_true_eq] at this
        omega
      · obtain ⟨i, _, _, rfl⟩ := Memory.mem_block.1 hc
        show base + i < d.1; omega
  · simp only [Memory.setRange, List.mem_append, List.mem_filter] at hc
    rcases hc with (hc | hc) | hc
    · exact h.2 c hc.1
    · exact hb.2 c hc
    · exact h.2 c hc.1

/-- A property of addresses that holds of all cells and of the set range holds of all cells afterwards. -/
theorem Memory.forall_setRange {p : Nat → Prop} {m : Memory} (h : ∀ c ∈ m, p c.1) {base n : Nat}
    (hr : ∀ i < n, p (base + i)) (f : Nat → Byte) : ∀ c ∈ m.setRange base n f, p c.1 := fun c hc => by
  simp only [Memory.setRange, List.mem_append, List.mem_filter] at hc
  rcases hc with (hc | hc) | hc
  · exact h c hc.1
  · obtain ⟨i, hi, _, rfl⟩ := Memory.mem_block.1 hc
    exact hr i hi
  · exact h c hc.1

/-- Memory made from cells is canonical and lies in FRAME and OUT. -/
theorem Memory.ofCells_wf (cells : List Host.Cell) :
    (Memory.ofCells cells).wf ∧ ∀ c ∈ Memory.ofCells cells, inMap c.1 = true := by
  have step : ∀ (cells : List Host.Cell) (m : Memory), m.wf ∧ (∀ c ∈ m, inMap c.1 = true) →
      (cells.foldl (fun m c => if inMap c.1 then Memory.write m c.1 c.2 else m) m).wf ∧
        ∀ c ∈ cells.foldl (fun m c => if inMap c.1 then Memory.write m c.1 c.2 else m) m, inMap c.1 = true := by
    intro cells
    induction cells with
    | nil => exact fun m h => h
    | cons d cells ih =>
      intro m h
      rw [List.foldl_cons]
      refine ih _ ?_
      split_ifs with hd
      · exact ⟨Memory.wf_write h.1 _ _, Memory.forall_write (p := fun a => inMap a = true) h.2 hd _⟩
      · exact h
  exact step cells [] ⟨⟨by simp, by simp⟩, by simp⟩

end Sys2Proof.Machine
end

