-- ==== Sys2Proof/Laws/Plane.lean ====
section
/-! SUPPORT. Reading a frame that was made point by point, and the range of a clamped value. -/

namespace Sys2Proof.Machine

theorem getElem_tabulate {α : Type} (n : Nat) (f : Fin n → α) (i : Nat) (h : i < (tabulate n f).length) :
    (tabulate n f)[i] = f ⟨i, by simpa [tabulate_length] using h⟩ := by
  induction n generalizing i with
  | zero => simp [tabulate] at h
  | succ n ih =>
    cases i with
    | zero => rfl
    | succ i => simpa [tabulate] using ih (fun i => f i.succ) i (by simpa [tabulate] using h)

/-- The element of a vector made point by point. -/
@[simp] theorem getElem_vecOf {α : Type} {n : Nat} (f : Fin n → α) (i : Nat) (h : i < n) : (vecOf f)[i] = f ⟨i, h⟩ :=
  getElem_tabulate n f i (by simpa [tabulate_length] using h)

/-- The element of a frame made point by point. -/
@[simp] theorem at_planeOf {α : Type} {h : Nat} (f : Fin h → Fin 128 → α) (y : Fin h) (x : Fin 128) :
    (planeOf f).at y x = f y x := by
  simp [planeOf, Plane.at]

@[simp] theorem at_fill {α : Type} {h : Nat} (a : α) (y : Fin h) (x : Fin 128) : (Plane.fill h a).at y x = a := by
  simp [Plane.fill, Plane.at]

/-- Two frames with the same elements are the same frame. -/
theorem plane_ext {α : Type} {h : Nat} {p q : Plane α h} (e : ∀ y x, p.at y x = q.at y x) : p = q := by
  apply Vector.ext
  intro y hy
  apply Vector.ext
  intro x hx
  exact e ⟨y, hy⟩ ⟨x, hx⟩

/-- R4: a clamped value lies in its range. -/
theorem clamp_range (lo v hi : Int) (h : lo ≤ hi) : lo ≤ clamp lo v hi ∧ clamp lo v hi ≤ hi := by
  unfold clamp; omega

/-- R4: a value in the range is left alone. -/
theorem clamp_of_mem {lo v hi : Int} (h : lo ≤ v) (h' : v ≤ hi) : clamp lo v hi = v := by
  unfold clamp; omega

/-- R56: the value of a clamped coordinate. -/
theorem coord_val (n : Nat) (v : Int) : ((coord n v).val : Int) = clamp 0 v n := by
  obtain ⟨h0, h1⟩ := clamp_range 0 v n (by omega)
  simp only [coord, Fin.val_ofNat]
  rw [Nat.mod_eq_of_lt (by omega)]
  omega

end Sys2Proof.Machine
end

