-- ==== Sys2Proof/Laws/State.lean ====
section
/-! SUPPORT. The small lemmas of State: each field after each update, so that no later proof unfolds a record update. -/

namespace Sys2Proof.Machine

/-! `setReg` -/

@[simp] theorem State.setReg_regs (s : State) (i : Fin 6) (v : Byte) : (s.setReg i v).regs = s.regs.set i v := rfl
@[simp] theorem State.setReg_matrix (s : State) (i : Fin 6) (v : Byte) : (s.setReg i v).matrix = s.matrix := rfl
@[simp] theorem State.setReg_status (s : State) (i : Fin 6) (v : Byte) : (s.setReg i v).status = s.status := rfl
@[simp] theorem State.setReg_mem (s : State) (i : Fin 6) (v : Byte) : (s.setReg i v).mem = s.mem := rfl
@[simp] theorem State.setReg_phase (s : State) (i : Fin 6) (v : Byte) : (s.setReg i v).phase = s.phase := rfl
@[simp] theorem State.setReg_dec (s : State) (i : Fin 6) (v : Byte) : (s.setReg i v).dec = s.dec := rfl
@[simp] theorem State.setReg_sf (s : State) (i : Fin 6) (v : Byte) : (s.setReg i v).sf = s.sf := rfl
@[simp] theorem State.setReg_hf (s : State) (i : Fin 6) (v : Byte) : (s.setReg i v).hf = s.hf := rfl
@[simp] theorem State.setReg_ff (s : State) (i : Fin 6) (v : Byte) : (s.setReg i v).ff = s.ff := rfl
@[simp] theorem State.setReg_qf (s : State) (i : Fin 6) (v : Byte) : (s.setReg i v).qf = s.qf := rfl
@[simp] theorem State.setReg_fault (s : State) (i : Fin 6) (v : Byte) : (s.setReg i v).fault = s.fault := rfl
@[simp] theorem State.setReg_readData (s : State) (i : Fin 6) (v : Byte) : (s.setReg i v).readData = s.readData := rfl
@[simp] theorem State.setReg_host (s : State) (i : Fin 6) (v : Byte) : (s.setReg i v).host = s.host := rfl
@[simp] theorem State.setReg_order (s : State) (i : Fin 6) (v : Byte) : (s.setReg i v).order = s.order := rfl
@[simp] theorem State.setReg_tick (s : State) (i : Fin 6) (v : Byte) : (s.setReg i v).tick = s.tick := rfl
@[simp] theorem State.setReg_wait (s : State) (i : Fin 6) (v : Byte) : (s.setReg i v).wait = s.wait := rfl
@[simp] theorem State.setReg_params (s : State) (i : Fin 6) (v : Byte) : (s.setReg i v).params = s.params := rfl

/-! `setThr` -/

@[simp] theorem State.setThr_regs (s : State) (k : Fin 48) (v : Byte) : (s.setThr k v).regs = s.regs := rfl
@[simp] theorem State.setThr_matrix (s : State) (k : Fin 48) (v : Byte) : (s.setThr k v).matrix = s.matrix.set k v := rfl
@[simp] theorem State.setThr_status (s : State) (k : Fin 48) (v : Byte) : (s.setThr k v).status = s.status := rfl
@[simp] theorem State.setThr_mem (s : State) (k : Fin 48) (v : Byte) : (s.setThr k v).mem = s.mem := rfl
@[simp] theorem State.setThr_phase (s : State) (k : Fin 48) (v : Byte) : (s.setThr k v).phase = s.phase := rfl
@[simp] theorem State.setThr_dec (s : State) (k : Fin 48) (v : Byte) : (s.setThr k v).dec = s.dec := rfl
@[simp] theorem State.setThr_sf (s : State) (k : Fin 48) (v : Byte) : (s.setThr k v).sf = s.sf := rfl
@[simp] theorem State.setThr_hf (s : State) (k : Fin 48) (v : Byte) : (s.setThr k v).hf = s.hf := rfl
@[simp] theorem State.setThr_ff (s : State) (k : Fin 48) (v : Byte) : (s.setThr k v).ff = s.ff := rfl
@[simp] theorem State.setThr_qf (s : State) (k : Fin 48) (v : Byte) : (s.setThr k v).qf = s.qf := rfl
@[simp] theorem State.setThr_fault (s : State) (k : Fin 48) (v : Byte) : (s.setThr k v).fault = s.fault := rfl
@[simp] theorem State.setThr_readData (s : State) (k : Fin 48) (v : Byte) : (s.setThr k v).readData = s.readData := rfl
@[simp] theorem State.setThr_host (s : State) (k : Fin 48) (v : Byte) : (s.setThr k v).host = s.host := rfl
@[simp] theorem State.setThr_order (s : State) (k : Fin 48) (v : Byte) : (s.setThr k v).order = s.order := rfl
@[simp] theorem State.setThr_tick (s : State) (k : Fin 48) (v : Byte) : (s.setThr k v).tick = s.tick := rfl
@[simp] theorem State.setThr_wait (s : State) (k : Fin 48) (v : Byte) : (s.setThr k v).wait = s.wait := rfl
@[simp] theorem State.setThr_params (s : State) (k : Fin 48) (v : Byte) : (s.setThr k v).params = s.params := rfl

/-! `setFrame` -/

@[simp] theorem State.setFrame_regs (s : State) (y : Fin 120) (x : Fin 128) (v : Byte) : (s.setFrame y x v).regs = s.regs := rfl
@[simp] theorem State.setFrame_matrix (s : State) (y : Fin 120) (x : Fin 128) (v : Byte) : (s.setFrame y x v).matrix = s.matrix := rfl
@[simp] theorem State.setFrame_status (s : State) (y : Fin 120) (x : Fin 128) (v : Byte) : (s.setFrame y x v).status = s.status := rfl
@[simp] theorem State.setFrame_mem (s : State) (y : Fin 120) (x : Fin 128) (v : Byte) : (s.setFrame y x v).mem = s.mem.write (frameAddr y x).toNat v := rfl
@[simp] theorem State.setFrame_phase (s : State) (y : Fin 120) (x : Fin 128) (v : Byte) : (s.setFrame y x v).phase = s.phase := rfl
@[simp] theorem State.setFrame_dec (s : State) (y : Fin 120) (x : Fin 128) (v : Byte) : (s.setFrame y x v).dec = s.dec := rfl
@[simp] theorem State.setFrame_sf (s : State) (y : Fin 120) (x : Fin 128) (v : Byte) : (s.setFrame y x v).sf = s.sf := rfl
@[simp] theorem State.setFrame_hf (s : State) (y : Fin 120) (x : Fin 128) (v : Byte) : (s.setFrame y x v).hf = s.hf := rfl
@[simp] theorem State.setFrame_ff (s : State) (y : Fin 120) (x : Fin 128) (v : Byte) : (s.setFrame y x v).ff = s.ff := rfl
@[simp] theorem State.setFrame_qf (s : State) (y : Fin 120) (x : Fin 128) (v : Byte) : (s.setFrame y x v).qf = s.qf := rfl
@[simp] theorem State.setFrame_fault (s : State) (y : Fin 120) (x : Fin 128) (v : Byte) : (s.setFrame y x v).fault = s.fault := rfl
@[simp] theorem State.setFrame_readData (s : State) (y : Fin 120) (x : Fin 128) (v : Byte) : (s.setFrame y x v).readData = s.readData := rfl
@[simp] theorem State.setFrame_host (s : State) (y : Fin 120) (x : Fin 128) (v : Byte) : (s.setFrame y x v).host = s.host := rfl
@[simp] theorem State.setFrame_order (s : State) (y : Fin 120) (x : Fin 128) (v : Byte) : (s.setFrame y x v).order = s.order := rfl
@[simp] theorem State.setFrame_tick (s : State) (y : Fin 120) (x : Fin 128) (v : Byte) : (s.setFrame y x v).tick = s.tick := rfl
@[simp] theorem State.setFrame_wait (s : State) (y : Fin 120) (x : Fin 128) (v : Byte) : (s.setFrame y x v).wait = s.wait := rfl
@[simp] theorem State.setFrame_params (s : State) (y : Fin 120) (x : Fin 128) (v : Byte) : (s.setFrame y x v).params = s.params := rfl

/-! `setOut` -/

@[simp] theorem State.setOut_regs (s : State) (f : Nat → Byte) : (s.setOut f).regs = s.regs := rfl
@[simp] theorem State.setOut_matrix (s : State) (f : Nat → Byte) : (s.setOut f).matrix = s.matrix := rfl
@[simp] theorem State.setOut_status (s : State) (f : Nat → Byte) : (s.setOut f).status = s.status := rfl
@[simp] theorem State.setOut_mem (s : State) (f : Nat → Byte) : (s.setOut f).mem = s.mem.setRange Config.outBase Config.outBytes f := rfl
@[simp] theorem State.setOut_phase (s : State) (f : Nat → Byte) : (s.setOut f).phase = s.phase := rfl
@[simp] theorem State.setOut_dec (s : State) (f : Nat → Byte) : (s.setOut f).dec = s.dec := rfl
@[simp] theorem State.setOut_sf (s : State) (f : Nat → Byte) : (s.setOut f).sf = s.sf := rfl
@[simp] theorem State.setOut_hf (s : State) (f : Nat → Byte) : (s.setOut f).hf = s.hf := rfl
@[simp] theorem State.setOut_ff (s : State) (f : Nat → Byte) : (s.setOut f).ff = s.ff := rfl
@[simp] theorem State.setOut_qf (s : State) (f : Nat → Byte) : (s.setOut f).qf = s.qf := rfl
@[simp] theorem State.setOut_fault (s : State) (f : Nat → Byte) : (s.setOut f).fault = s.fault := rfl
@[simp] theorem State.setOut_readData (s : State) (f : Nat → Byte) : (s.setOut f).readData = s.readData := rfl
@[simp] theorem State.setOut_host (s : State) (f : Nat → Byte) : (s.setOut f).host = s.host := rfl
@[simp] theorem State.setOut_order (s : State) (f : Nat → Byte) : (s.setOut f).order = s.order := rfl
@[simp] theorem State.setOut_tick (s : State) (f : Nat → Byte) : (s.setOut f).tick = s.tick := rfl
@[simp] theorem State.setOut_wait (s : State) (f : Nat → Byte) : (s.setOut f).wait = s.wait := rfl
@[simp] theorem State.setOut_params (s : State) (f : Nat → Byte) : (s.setOut f).params = s.params := rfl

/-! `returnByte` -/

@[simp] theorem State.returnByte_regs (s : State) (b : Byte) : (s.returnByte b).regs = s.regs := rfl
@[simp] theorem State.returnByte_matrix (s : State) (b : Byte) : (s.returnByte b).matrix = s.matrix := rfl
@[simp] theorem State.returnByte_status (s : State) (b : Byte) : (s.returnByte b).status = s.status := rfl
@[simp] theorem State.returnByte_mem (s : State) (b : Byte) : (s.returnByte b).mem = s.mem := rfl
@[simp] theorem State.returnByte_phase (s : State) (b : Byte) : (s.returnByte b).phase = s.phase := rfl
@[simp] theorem State.returnByte_dec (s : State) (b : Byte) : (s.returnByte b).dec = s.dec := rfl
@[simp] theorem State.returnByte_sf (s : State) (b : Byte) : (s.returnByte b).sf = s.sf := rfl
@[simp] theorem State.returnByte_hf (s : State) (b : Byte) : (s.returnByte b).hf = s.hf := rfl
@[simp] theorem State.returnByte_ff (s : State) (b : Byte) : (s.returnByte b).ff = s.ff := rfl
@[simp] theorem State.returnByte_qf (s : State) (b : Byte) : (s.returnByte b).qf = s.qf := rfl
@[simp] theorem State.returnByte_fault (s : State) (b : Byte) : (s.returnByte b).fault = s.fault := rfl
@[simp] theorem State.returnByte_readData (s : State) (b : Byte) : (s.returnByte b).readData = some b := rfl
@[simp] theorem State.returnByte_host (s : State) (b : Byte) : (s.returnByte b).host = s.host := rfl
@[simp] theorem State.returnByte_order (s : State) (b : Byte) : (s.returnByte b).order = s.order := rfl
@[simp] theorem State.returnByte_tick (s : State) (b : Byte) : (s.returnByte b).tick = s.tick := rfl
@[simp] theorem State.returnByte_wait (s : State) (b : Byte) : (s.returnByte b).wait = s.wait := rfl
@[simp] theorem State.returnByte_params (s : State) (b : Byte) : (s.returnByte b).params = s.params := rfl

/-! `startRun` -/

@[simp] theorem State.startRun_regs (s : State) : s.startRun.regs = s.regs := rfl
@[simp] theorem State.startRun_matrix (s : State) : s.startRun.matrix = s.matrix := rfl
@[simp] theorem State.startRun_status (s : State) : s.startRun.status = statusStart (decodeRegs s.regs) := rfl
@[simp] theorem State.startRun_mem (s : State) : s.startRun.mem = s.mem := rfl
@[simp] theorem State.startRun_phase (s : State) : s.startRun.phase = .frontend := rfl
@[simp] theorem State.startRun_dec (s : State) : s.startRun.dec = decodeRegs s.regs := rfl
@[simp] theorem State.startRun_sf (s : State) : s.startRun.sf = s.sf := rfl
@[simp] theorem State.startRun_hf (s : State) : s.startRun.hf = s.hf := rfl
@[simp] theorem State.startRun_ff (s : State) : s.startRun.ff = s.ff := rfl
@[simp] theorem State.startRun_qf (s : State) : s.startRun.qf = s.qf := rfl
@[simp] theorem State.startRun_fault (s : State) : s.startRun.fault = s.fault := rfl
@[simp] theorem State.startRun_readData (s : State) : s.startRun.readData = s.readData := rfl
@[simp] theorem State.startRun_host (s : State) : s.startRun.host = s.host := rfl
@[simp] theorem State.startRun_order (s : State) : s.startRun.order = s.order := rfl
@[simp] theorem State.startRun_tick (s : State) : s.startRun.tick = s.tick := rfl
@[simp] theorem State.startRun_wait (s : State) : s.startRun.wait = s.wait := rfl
@[simp] theorem State.startRun_params (s : State) : s.startRun.params = s.params := rfl

/-! `filterVert1d` -/

@[simp] theorem State.filterVert1d_regs (s : State) : s.filterVert1d.regs = s.regs := rfl
@[simp] theorem State.filterVert1d_matrix (s : State) : s.filterVert1d.matrix = s.matrix := rfl
@[simp] theorem State.filterVert1d_status (s : State) : s.filterVert1d.status = s.status := rfl
@[simp] theorem State.filterVert1d_mem (s : State) : s.filterVert1d.mem = s.mem := rfl
@[simp] theorem State.filterVert1d_phase (s : State) : s.filterVert1d.phase = s.phase := rfl
@[simp] theorem State.filterVert1d_dec (s : State) : s.filterVert1d.dec = s.dec := rfl
@[simp] theorem State.filterVert1d_sf (s : State) : s.filterVert1d.sf = s.sf := rfl
@[simp] theorem State.filterVert1d_hf (s : State) : s.filterVert1d.hf = s.hf := rfl
@[simp] theorem State.filterVert1d_ff (s : State) : s.filterVert1d.ff = vert1d s.sf s.dec.p s.dec.m := rfl
@[simp] theorem State.filterVert1d_qf (s : State) : s.filterVert1d.qf = s.qf := rfl
@[simp] theorem State.filterVert1d_fault (s : State) : s.filterVert1d.fault = s.fault := rfl
@[simp] theorem State.filterVert1d_readData (s : State) : s.filterVert1d.readData = s.readData := rfl
@[simp] theorem State.filterVert1d_host (s : State) : s.filterVert1d.host = s.host := rfl
@[simp] theorem State.filterVert1d_order (s : State) : s.filterVert1d.order = s.order := rfl
@[simp] theorem State.filterVert1d_tick (s : State) : s.filterVert1d.tick = s.tick := rfl
@[simp] theorem State.filterVert1d_wait (s : State) : s.filterVert1d.wait = s.wait := rfl
@[simp] theorem State.filterVert1d_params (s : State) : s.filterVert1d.params = s.params := rfl

/-! `filterZero` -/

@[simp] theorem State.filterZero_regs (s : State) : s.filterZero.regs = s.regs := rfl
@[simp] theorem State.filterZero_matrix (s : State) : s.filterZero.matrix = s.matrix := rfl
@[simp] theorem State.filterZero_status (s : State) : s.filterZero.status = s.status := rfl
@[simp] theorem State.filterZero_mem (s : State) : s.filterZero.mem = s.mem := rfl
@[simp] theorem State.filterZero_phase (s : State) : s.filterZero.phase = s.phase := rfl
@[simp] theorem State.filterZero_dec (s : State) : s.filterZero.dec = s.dec := rfl
@[simp] theorem State.filterZero_sf (s : State) : s.filterZero.sf = s.sf := rfl
@[simp] theorem State.filterZero_hf (s : State) : s.filterZero.hf = s.hf := rfl
@[simp] theorem State.filterZero_ff (s : State) : s.filterZero.ff = zeroFilter := rfl
@[simp] theorem State.filterZero_qf (s : State) : s.filterZero.qf = s.qf := rfl
@[simp] theorem State.filterZero_fault (s : State) : s.filterZero.fault = s.fault := rfl
@[simp] theorem State.filterZero_readData (s : State) : s.filterZero.readData = s.readData := rfl
@[simp] theorem State.filterZero_host (s : State) : s.filterZero.host = s.host := rfl
@[simp] theorem State.filterZero_order (s : State) : s.filterZero.order = s.order := rfl
@[simp] theorem State.filterZero_tick (s : State) : s.filterZero.tick = s.tick := rfl
@[simp] theorem State.filterZero_wait (s : State) : s.filterZero.wait = s.wait := rfl
@[simp] theorem State.filterZero_params (s : State) : s.filterZero.params = s.params := rfl

/-! `filterHedge` -/

@[simp] theorem State.filterHedge_regs (s : State) : s.filterHedge.regs = s.regs := rfl
@[simp] theorem State.filterHedge_matrix (s : State) : s.filterHedge.matrix = s.matrix := rfl
@[simp] theorem State.filterHedge_status (s : State) : s.filterHedge.status = s.status := rfl
@[simp] theorem State.filterHedge_mem (s : State) : s.filterHedge.mem = s.mem := rfl
@[simp] theorem State.filterHedge_phase (s : State) : s.filterHedge.phase = s.phase := rfl
@[simp] theorem State.filterHedge_dec (s : State) : s.filterHedge.dec = s.dec := rfl
@[simp] theorem State.filterHedge_sf (s : State) : s.filterHedge.sf = s.sf := rfl
@[simp] theorem State.filterHedge_hf (s : State) : s.filterHedge.hf = hedge s.edgeRound s.sf s.dec.gain4 := rfl
@[simp] theorem State.filterHedge_ff (s : State) : s.filterHedge.ff = vert1d (hedge s.edgeRound s.sf s.dec.gain4) s.dec.p s.dec.m := rfl
@[simp] theorem State.filterHedge_qf (s : State) : s.filterHedge.qf = s.qf := rfl
@[simp] theorem State.filterHedge_fault (s : State) : s.filterHedge.fault = s.fault := rfl
@[simp] theorem State.filterHedge_readData (s : State) : s.filterHedge.readData = s.readData := rfl
@[simp] theorem State.filterHedge_host (s : State) : s.filterHedge.host = s.host := rfl
@[simp] theorem State.filterHedge_order (s : State) : s.filterHedge.order = s.order := rfl
@[simp] theorem State.filterHedge_tick (s : State) : s.filterHedge.tick = s.tick := rfl
@[simp] theorem State.filterHedge_wait (s : State) : s.filterHedge.wait = s.wait := rfl
@[simp] theorem State.filterHedge_params (s : State) : s.filterHedge.params = s.params := rfl

/-! `filterLaplace` -/

@[simp] theorem State.filterLaplace_regs (s : State) : s.filterLaplace.regs = s.regs := rfl
@[simp] theorem State.filterLaplace_matrix (s : State) : s.filterLaplace.matrix = s.matrix := rfl
@[simp] theorem State.filterLaplace_status (s : State) : s.filterLaplace.status = s.status := rfl
@[simp] theorem State.filterLaplace_mem (s : State) : s.filterLaplace.mem = s.mem := rfl
@[simp] theorem State.filterLaplace_phase (s : State) : s.filterLaplace.phase = s.phase := rfl
@[simp] theorem State.filterLaplace_dec (s : State) : s.filterLaplace.dec = s.dec := rfl
@[simp] theorem State.filterLaplace_sf (s : State) : s.filterLaplace.sf = s.sf := rfl
@[simp] theorem State.filterLaplace_hf (s : State) : s.filterLaplace.hf = s.hf := rfl
@[simp] theorem State.filterLaplace_ff (s : State) : s.filterLaplace.ff = laplace2d s.edgeRound s.sf s.dec.gain4 := rfl
@[simp] theorem State.filterLaplace_qf (s : State) : s.filterLaplace.qf = s.qf := rfl
@[simp] theorem State.filterLaplace_fault (s : State) : s.filterLaplace.fault = s.fault := rfl
@[simp] theorem State.filterLaplace_readData (s : State) : s.filterLaplace.readData = s.readData := rfl
@[simp] theorem State.filterLaplace_host (s : State) : s.filterLaplace.host = s.host := rfl
@[simp] theorem State.filterLaplace_order (s : State) : s.filterLaplace.order = s.order := rfl
@[simp] theorem State.filterLaplace_tick (s : State) : s.filterLaplace.tick = s.tick := rfl
@[simp] theorem State.filterLaplace_wait (s : State) : s.filterLaplace.wait = s.wait := rfl
@[simp] theorem State.filterLaplace_params (s : State) : s.filterLaplace.params = s.params := rfl

/-! `filterPass` -/

@[simp] theorem State.filterPass_regs (s : State) : s.filterPass.regs = s.regs := rfl
@[simp] theorem State.filterPass_matrix (s : State) : s.filterPass.matrix = s.matrix := rfl
@[simp] theorem State.filterPass_status (s : State) : s.filterPass.status = s.status := rfl
@[simp] theorem State.filterPass_mem (s : State) : s.filterPass.mem = s.mem := rfl
@[simp] theorem State.filterPass_phase (s : State) : s.filterPass.phase = s.phase := rfl
@[simp] theorem State.filterPass_dec (s : State) : s.filterPass.dec = s.dec := rfl
@[simp] theorem State.filterPass_sf (s : State) : s.filterPass.sf = s.sf := rfl
@[simp] theorem State.filterPass_hf (s : State) : s.filterPass.hf = s.hf := rfl
@[simp] theorem State.filterPass_ff (s : State) : s.filterPass.ff = passFilter s.sf := rfl
@[simp] theorem State.filterPass_qf (s : State) : s.filterPass.qf = s.qf := rfl
@[simp] theorem State.filterPass_fault (s : State) : s.filterPass.fault = s.fault := rfl
@[simp] theorem State.filterPass_readData (s : State) : s.filterPass.readData = s.readData := rfl
@[simp] theorem State.filterPass_host (s : State) : s.filterPass.host = s.host := rfl
@[simp] theorem State.filterPass_order (s : State) : s.filterPass.order = s.order := rfl
@[simp] theorem State.filterPass_tick (s : State) : s.filterPass.tick = s.tick := rfl
@[simp] theorem State.filterPass_wait (s : State) : s.filterPass.wait = s.wait := rfl
@[simp] theorem State.filterPass_params (s : State) : s.filterPass.params = s.params := rfl

/-! `filterDone` -/

@[simp] theorem State.filterDone_regs (s : State) : s.filterDone.regs = s.regs := rfl
@[simp] theorem State.filterDone_matrix (s : State) : s.filterDone.matrix = s.matrix := rfl
@[simp] theorem State.filterDone_status (s : State) : s.filterDone.status = s.status := rfl
@[simp] theorem State.filterDone_mem (s : State) : s.filterDone.mem = s.mem := rfl
@[simp] theorem State.filterDone_phase (s : State) : s.filterDone.phase = .quantize := rfl
@[simp] theorem State.filterDone_dec (s : State) : s.filterDone.dec = s.dec := rfl
@[simp] theorem State.filterDone_sf (s : State) : s.filterDone.sf = s.sf := rfl
@[simp] theorem State.filterDone_hf (s : State) : s.filterDone.hf = s.hf := rfl
@[simp] theorem State.filterDone_ff (s : State) : s.filterDone.ff = s.ff := rfl
@[simp] theorem State.filterDone_qf (s : State) : s.filterDone.qf = s.qf := rfl
@[simp] theorem State.filterDone_fault (s : State) : s.filterDone.fault = s.fault := rfl
@[simp] theorem State.filterDone_readData (s : State) : s.filterDone.readData = s.readData := rfl
@[simp] theorem State.filterDone_host (s : State) : s.filterDone.host = s.host := rfl
@[simp] theorem State.filterDone_order (s : State) : s.filterDone.order = s.order := rfl
@[simp] theorem State.filterDone_tick (s : State) : s.filterDone.tick = s.tick := rfl
@[simp] theorem State.filterDone_wait (s : State) : s.filterDone.wait = s.wait := rfl
@[simp] theorem State.filterDone_params (s : State) : s.filterDone.params = s.params := rfl

/-! `takeTurn` -/

@[simp] theorem State.takeTurn_regs (s : State) : s.takeTurn.regs = s.regs := rfl
@[simp] theorem State.takeTurn_matrix (s : State) : s.takeTurn.matrix = s.matrix := rfl
@[simp] theorem State.takeTurn_status (s : State) : s.takeTurn.status = s.status := rfl
@[simp] theorem State.takeTurn_mem (s : State) : s.takeTurn.mem = s.mem := rfl
@[simp] theorem State.takeTurn_phase (s : State) : s.takeTurn.phase = s.phase := rfl
@[simp] theorem State.takeTurn_dec (s : State) : s.takeTurn.dec = s.dec := rfl
@[simp] theorem State.takeTurn_sf (s : State) : s.takeTurn.sf = s.sf := rfl
@[simp] theorem State.takeTurn_hf (s : State) : s.takeTurn.hf = s.hf := rfl
@[simp] theorem State.takeTurn_ff (s : State) : s.takeTurn.ff = s.ff := rfl
@[simp] theorem State.takeTurn_qf (s : State) : s.takeTurn.qf = s.qf := rfl
@[simp] theorem State.takeTurn_fault (s : State) : s.takeTurn.fault = s.fault := rfl
@[simp] theorem State.takeTurn_readData (s : State) : s.takeTurn.readData = s.readData := rfl
@[simp] theorem State.takeTurn_host (s : State) : s.takeTurn.host = s.host := rfl
@[simp] theorem State.takeTurn_order (s : State) : s.takeTurn.order = s.order.tail := rfl
@[simp] theorem State.takeTurn_tick (s : State) : s.takeTurn.tick = s.tick + 1 := rfl
@[simp] theorem State.takeTurn_wait (s : State) : s.takeTurn.wait = s.nextWait := rfl
@[simp] theorem State.takeTurn_params (s : State) : s.takeTurn.params = s.params := rfl

/-! `hostGoto` -/

@[simp] theorem State.hostGoto_regs (s : State) (pc : Nat) : (s.hostGoto pc).regs = s.regs := rfl
@[simp] theorem State.hostGoto_matrix (s : State) (pc : Nat) : (s.hostGoto pc).matrix = s.matrix := rfl
@[simp] theorem State.hostGoto_status (s : State) (pc : Nat) : (s.hostGoto pc).status = s.status := rfl
@[simp] theorem State.hostGoto_mem (s : State) (pc : Nat) : (s.hostGoto pc).mem = s.mem := rfl
@[simp] theorem State.hostGoto_phase (s : State) (pc : Nat) : (s.hostGoto pc).phase = s.phase := rfl
@[simp] theorem State.hostGoto_dec (s : State) (pc : Nat) : (s.hostGoto pc).dec = s.dec := rfl
@[simp] theorem State.hostGoto_sf (s : State) (pc : Nat) : (s.hostGoto pc).sf = s.sf := rfl
@[simp] theorem State.hostGoto_hf (s : State) (pc : Nat) : (s.hostGoto pc).hf = s.hf := rfl
@[simp] theorem State.hostGoto_ff (s : State) (pc : Nat) : (s.hostGoto pc).ff = s.ff := rfl
@[simp] theorem State.hostGoto_qf (s : State) (pc : Nat) : (s.hostGoto pc).qf = s.qf := rfl
@[simp] theorem State.hostGoto_fault (s : State) (pc : Nat) : (s.hostGoto pc).fault = s.fault := rfl
@[simp] theorem State.hostGoto_readData (s : State) (pc : Nat) : (s.hostGoto pc).readData = s.readData := rfl
@[simp] theorem State.hostGoto_host (s : State) (pc : Nat) : (s.hostGoto pc).host = { s.host with pc := pc } := rfl
@[simp] theorem State.hostGoto_order (s : State) (pc : Nat) : (s.hostGoto pc).order = s.order := rfl
@[simp] theorem State.hostGoto_tick (s : State) (pc : Nat) : (s.hostGoto pc).tick = s.tick := rfl
@[simp] theorem State.hostGoto_wait (s : State) (pc : Nat) : (s.hostGoto pc).wait = s.wait := rfl
@[simp] theorem State.hostGoto_params (s : State) (pc : Nat) : (s.hostGoto pc).params = s.params := rfl

/-! `resetWith` -/

@[simp] theorem State.resetWith_regs (s : State) (d : ResetDraw) : (s.resetWith d).regs = d.regs := rfl
@[simp] theorem State.resetWith_matrix (s : State) (d : ResetDraw) : (s.resetWith d).matrix = d.matrix := rfl
@[simp] theorem State.resetWith_status (s : State) (d : ResetDraw) : (s.resetWith d).status = Status.reset := rfl
@[simp] theorem State.resetWith_mem (s : State) (d : ResetDraw) : (s.resetWith d).mem = Memory.ofCells d.mem := rfl
@[simp] theorem State.resetWith_phase (s : State) (d : ResetDraw) : (s.resetWith d).phase = .idle := rfl
@[simp] theorem State.resetWith_dec (s : State) (d : ResetDraw) : (s.resetWith d).dec = d.dec := rfl
@[simp] theorem State.resetWith_sf (s : State) (d : ResetDraw) : (s.resetWith d).sf = clampPlane (-128) 127 d.sf := rfl
@[simp] theorem State.resetWith_hf (s : State) (d : ResetDraw) : (s.resetWith d).hf = clampPlane 0 255 d.hf := rfl
@[simp] theorem State.resetWith_ff (s : State) (d : ResetDraw) : (s.resetWith d).ff = clampPlane (-128) 127 d.ff := rfl
@[simp] theorem State.resetWith_qf (s : State) (d : ResetDraw) : (s.resetWith d).qf = d.qf := rfl
@[simp] theorem State.resetWith_fault (s : State) (d : ResetDraw) : (s.resetWith d).fault = none := rfl
@[simp] theorem State.resetWith_readData (s : State) (d : ResetDraw) : (s.resetWith d).readData = none := rfl
@[simp] theorem State.resetWith_host (s : State) (d : ResetDraw) : (s.resetWith d).host = s.host := rfl
@[simp] theorem State.resetWith_order (s : State) (d : ResetDraw) : (s.resetWith d).order = s.order := rfl
@[simp] theorem State.resetWith_tick (s : State) (d : ResetDraw) : (s.resetWith d).tick = s.tick := rfl
@[simp] theorem State.resetWith_wait (s : State) (d : ResetDraw) : (s.resetWith d).wait = s.wait := rfl
@[simp] theorem State.resetWith_params (s : State) (d : ResetDraw) : (s.resetWith d).params = s.params := rfl

/-! `applyFilter`: only HF and FF change. -/

@[simp] theorem State.applyFilter_regs (s : State) (m : BitVec 4) : (s.applyFilter m).regs = s.regs := by
  unfold State.applyFilter; split_ifs <;> rfl
@[simp] theorem State.applyFilter_matrix (s : State) (m : BitVec 4) : (s.applyFilter m).matrix = s.matrix := by
  unfold State.applyFilter; split_ifs <;> rfl
@[simp] theorem State.applyFilter_status (s : State) (m : BitVec 4) : (s.applyFilter m).status = s.status := by
  unfold State.applyFilter; split_ifs <;> rfl
@[simp] theorem State.applyFilter_mem (s : State) (m : BitVec 4) : (s.applyFilter m).mem = s.mem := by
  unfold State.applyFilter; split_ifs <;> rfl
@[simp] theorem State.applyFilter_phase (s : State) (m : BitVec 4) : (s.applyFilter m).phase = s.phase := by
  unfold State.applyFilter; split_ifs <;> rfl
@[simp] theorem State.applyFilter_dec (s : State) (m : BitVec 4) : (s.applyFilter m).dec = s.dec := by
  unfold State.applyFilter; split_ifs <;> rfl
@[simp] theorem State.applyFilter_sf (s : State) (m : BitVec 4) : (s.applyFilter m).sf = s.sf := by
  unfold State.applyFilter; split_ifs <;> rfl
@[simp] theorem State.applyFilter_qf (s : State) (m : BitVec 4) : (s.applyFilter m).qf = s.qf := by
  unfold State.applyFilter; split_ifs <;> rfl
@[simp] theorem State.applyFilter_fault (s : State) (m : BitVec 4) : (s.applyFilter m).fault = s.fault := by
  unfold State.applyFilter; split_ifs <;> rfl
@[simp] theorem State.applyFilter_readData (s : State) (m : BitVec 4) : (s.applyFilter m).readData = s.readData := by
  unfold State.applyFilter; split_ifs <;> rfl
@[simp] theorem State.applyFilter_host (s : State) (m : BitVec 4) : (s.applyFilter m).host = s.host := by
  unfold State.applyFilter; split_ifs <;> rfl
@[simp] theorem State.applyFilter_order (s : State) (m : BitVec 4) : (s.applyFilter m).order = s.order := by
  unfold State.applyFilter; split_ifs <;> rfl
@[simp] theorem State.applyFilter_tick (s : State) (m : BitVec 4) : (s.applyFilter m).tick = s.tick := by
  unfold State.applyFilter; split_ifs <;> rfl
@[simp] theorem State.applyFilter_wait (s : State) (m : BitVec 4) : (s.applyFilter m).wait = s.wait := by
  unfold State.applyFilter; split_ifs <;> rfl
@[simp] theorem State.applyFilter_params (s : State) (m : BitVec 4) : (s.applyFilter m).params = s.params := by
  unfold State.applyFilter; split_ifs <;> rfl

@[simp] theorem State.applyFilter_ff (s : State) (m : BitVec 4) :
    (s.applyFilter m).ff = filterPlane s.edgeRound { s.dec with mode := m } s.sf := by
  unfold State.applyFilter filterPlane; split_ifs <;> rfl

/-- HF changes in mode 0x2 only. -/
theorem State.applyFilter_hf (s : State) (m : BitVec 4) :
    (s.applyFilter m).hf = if m = 0x2 then hedge s.edgeRound s.sf s.dec.gain4 else s.hf := by
  unfold State.applyFilter; split_ifs <;> first | rfl | simp_all

/-! `raise`: only FAULT changes. -/

@[simp] theorem State.raise_regs (s : State) (c : FaultCode) (w : Htw) : (s.raise c w).regs = s.regs := by
  unfold State.raise; split <;> rfl
@[simp] theorem State.raise_matrix (s : State) (c : FaultCode) (w : Htw) : (s.raise c w).matrix = s.matrix := by
  unfold State.raise; split <;> rfl
@[simp] theorem State.raise_status (s : State) (c : FaultCode) (w : Htw) : (s.raise c w).status = s.status := by
  unfold State.raise; split <;> rfl
@[simp] theorem State.raise_mem (s : State) (c : FaultCode) (w : Htw) : (s.raise c w).mem = s.mem := by
  unfold State.raise; split <;> rfl
@[simp] theorem State.raise_phase (s : State) (c : FaultCode) (w : Htw) : (s.raise c w).phase = s.phase := by
  unfold State.raise; split <;> rfl
@[simp] theorem State.raise_dec (s : State) (c : FaultCode) (w : Htw) : (s.raise c w).dec = s.dec := by
  unfold State.raise; split <;> rfl
@[simp] theorem State.raise_sf (s : State) (c : FaultCode) (w : Htw) : (s.raise c w).sf = s.sf := by
  unfold State.raise; split <;> rfl
@[simp] theorem State.raise_hf (s : State) (c : FaultCode) (w : Htw) : (s.raise c w).hf = s.hf := by
  unfold State.raise; split <;> rfl
@[simp] theorem State.raise_ff (s : State) (c : FaultCode) (w : Htw) : (s.raise c w).ff = s.ff := by
  unfold State.raise; split <;> rfl
@[simp] theorem State.raise_qf (s : State) (c : FaultCode) (w : Htw) : (s.raise c w).qf = s.qf := by
  unfold State.raise; split <;> rfl
@[simp] theorem State.raise_readData (s : State) (c : FaultCode) (w : Htw) : (s.raise c w).readData = s.readData := by
  unfold State.raise; split <;> rfl
@[simp] theorem State.raise_host (s : State) (c : FaultCode) (w : Htw) : (s.raise c w).host = s.host := by
  unfold State.raise; split <;> rfl
@[simp] theorem State.raise_order (s : State) (c : FaultCode) (w : Htw) : (s.raise c w).order = s.order := by
  unfold State.raise; split <;> rfl
@[simp] theorem State.raise_tick (s : State) (c : FaultCode) (w : Htw) : (s.raise c w).tick = s.tick := by
  unfold State.raise; split <;> rfl
@[simp] theorem State.raise_wait (s : State) (c : FaultCode) (w : Htw) : (s.raise c w).wait = s.wait := by
  unfold State.raise; split <;> rfl
@[simp] theorem State.raise_params (s : State) (c : FaultCode) (w : Htw) : (s.raise c w).params = s.params := by
  unfold State.raise; split <;> rfl

/-! `hostAssign`, `hostFinish`: only the host agent changes. -/

@[simp] theorem State.hostAssign_regs (s : State) (r : Nat) : (s.hostAssign r).regs = s.regs := by
  unfold State.hostAssign; split <;> rfl
@[simp] theorem State.hostAssign_matrix (s : State) (r : Nat) : (s.hostAssign r).matrix = s.matrix := by
  unfold State.hostAssign; split <;> rfl
@[simp] theorem State.hostAssign_status (s : State) (r : Nat) : (s.hostAssign r).status = s.status := by
  unfold State.hostAssign; split <;> rfl
@[simp] theorem State.hostAssign_mem (s : State) (r : Nat) : (s.hostAssign r).mem = s.mem := by
  unfold State.hostAssign; split <;> rfl
@[simp] theorem State.hostAssign_phase (s : State) (r : Nat) : (s.hostAssign r).phase = s.phase := by
  unfold State.hostAssign; split <;> rfl
@[simp] theorem State.hostAssign_dec (s : State) (r : Nat) : (s.hostAssign r).dec = s.dec := by
  unfold State.hostAssign; split <;> rfl
@[simp] theorem State.hostAssign_sf (s : State) (r : Nat) : (s.hostAssign r).sf = s.sf := by
  unfold State.hostAssign; split <;> rfl
@[simp] theorem State.hostAssign_hf (s : State) (r : Nat) : (s.hostAssign r).hf = s.hf := by
  unfold State.hostAssign; split <;> rfl
@[simp] theorem State.hostAssign_ff (s : State) (r : Nat) : (s.hostAssign r).ff = s.ff := by
  unfold State.hostAssign; split <;> rfl
@[simp] theorem State.hostAssign_qf (s : State) (r : Nat) : (s.hostAssign r).qf = s.qf := by
  unfold State.hostAssign; split <;> rfl
@[simp] theorem State.hostAssign_fault (s : State) (r : Nat) : (s.hostAssign r).fault = s.fault := by
  unfold State.hostAssign; split <;> rfl
@[simp] theorem State.hostAssign_readData (s : State) (r : Nat) : (s.hostAssign r).readData = s.readData := by
  unfold State.hostAssign; split <;> rfl
@[simp] theorem State.hostAssign_order (s : State) (r : Nat) : (s.hostAssign r).order = s.order := by
  unfold State.hostAssign; split <;> rfl
@[simp] theorem State.hostAssign_tick (s : State) (r : Nat) : (s.hostAssign r).tick = s.tick := by
  unfold State.hostAssign; split <;> rfl
@[simp] theorem State.hostAssign_wait (s : State) (r : Nat) : (s.hostAssign r).wait = s.wait := by
  unfold State.hostAssign; split <;> rfl
@[simp] theorem State.hostAssign_params (s : State) (r : Nat) : (s.hostAssign r).params = s.params := by
  unfold State.hostAssign; split <;> rfl
@[simp] theorem State.hostFinish_regs (s : State) (w : Htw) (dst : Option Nat) : (s.hostFinish w dst).regs = s.regs := by
  unfold State.hostFinish; dsimp only; split <;> simp
@[simp] theorem State.hostFinish_matrix (s : State) (w : Htw) (dst : Option Nat) : (s.hostFinish w dst).matrix = s.matrix := by
  unfold State.hostFinish; dsimp only; split <;> simp
@[simp] theorem State.hostFinish_status (s : State) (w : Htw) (dst : Option Nat) : (s.hostFinish w dst).status = s.status := by
  unfold State.hostFinish; dsimp only; split <;> simp
@[simp] theorem State.hostFinish_mem (s : State) (w : Htw) (dst : Option Nat) : (s.hostFinish w dst).mem = s.mem := by
  unfold State.hostFinish; dsimp only; split <;> simp
@[simp] theorem State.hostFinish_phase (s : State) (w : Htw) (dst : Option Nat) : (s.hostFinish w dst).phase = s.phase := by
  unfold State.hostFinish; dsimp only; split <;> simp
@[simp] theorem State.hostFinish_dec (s : State) (w : Htw) (dst : Option Nat) : (s.hostFinish w dst).dec = s.dec := by
  unfold State.hostFinish; dsimp only; split <;> simp
@[simp] theorem State.hostFinish_sf (s : State) (w : Htw) (dst : Option Nat) : (s.hostFinish w dst).sf = s.sf := by
  unfold State.hostFinish; dsimp only; split <;> simp
@[simp] theorem State.hostFinish_hf (s : State) (w : Htw) (dst : Option Nat) : (s.hostFinish w dst).hf = s.hf := by
  unfold State.hostFinish; dsimp only; split <;> simp
@[simp] theorem State.hostFinish_ff (s : State) (w : Htw) (dst : Option Nat) : (s.hostFinish w dst).ff = s.ff := by
  unfold State.hostFinish; dsimp only; split <;> simp
@[simp] theorem State.hostFinish_qf (s : State) (w : Htw) (dst : Option Nat) : (s.hostFinish w dst).qf = s.qf := by
  unfold State.hostFinish; dsimp only; split <;> simp
@[simp] theorem State.hostFinish_fault (s : State) (w : Htw) (dst : Option Nat) : (s.hostFinish w dst).fault = s.fault := by
  unfold State.hostFinish; dsimp only; split <;> simp
@[simp] theorem State.hostFinish_readData (s : State) (w : Htw) (dst : Option Nat) : (s.hostFinish w dst).readData = s.readData := by
  unfold State.hostFinish; dsimp only; split <;> simp
@[simp] theorem State.hostFinish_order (s : State) (w : Htw) (dst : Option Nat) : (s.hostFinish w dst).order = s.order := by
  unfold State.hostFinish; dsimp only; split <;> simp
@[simp] theorem State.hostFinish_tick (s : State) (w : Htw) (dst : Option Nat) : (s.hostFinish w dst).tick = s.tick := by
  unfold State.hostFinish; dsimp only; split <;> simp
@[simp] theorem State.hostFinish_wait (s : State) (w : Htw) (dst : Option Nat) : (s.hostFinish w dst).wait = s.wait := by
  unfold State.hostFinish; dsimp only; split <;> simp
@[simp] theorem State.hostFinish_params (s : State) (w : Htw) (dst : Option Nat) : (s.hostFinish w dst).params = s.params := by
  unfold State.hostFinish; dsimp only; split <;> simp

/-- The script and the place in it after a transaction. -/
theorem State.hostFinish_host (s : State) (w : Htw) (dst : Option Nat) :
    (s.hostFinish w dst).host.script = s.host.script ∧ (s.hostFinish w dst).host.pc = s.host.pc + 1 := by
  unfold State.hostFinish State.hostAssign
  dsimp only
  split <;> simp
  split <;> simp

end Sys2Proof.Machine
end

