-- ==== Sys2Proof/Laws/Ops.lean ====
section
/-! SUPPORT. What each shared operation can do, said once, so that no later proof unfolds it. -/

namespace Sys2Proof.Machine

/-- An operation that completes started in a state without a fault and leads where it says. -/
theorem whenLive_next {s t u : State} : whenLive s t = .next u ↔ s.fault = none ∧ t = u := by
  unfold whenLive
  cases s.fault <;> simp

/-- Once FAULT is set there is no further step. -/
theorem whenLive_halted {s : State} {r : FaultRecord} (h : s.fault = some r) (t : State) :
    whenLive s t = .fault (.halted r.code) := by
  simp [whenLive, h]

/-- In a state without a fault an operation completes. -/
theorem whenLive_live {s : State} (h : s.fault = none) (t : State) : whenLive s t = .next t := by
  simp [whenLive, h]

/-- No operation is refused. -/
theorem whenLive_not_refused (s t : State) (r : Refusal) : whenLive s t ≠ .refused r := by
  unfold whenLive
  cases s.fault <;> simp

/-- The guard of the host operations that BUSY forbids. -/
theorem unlessBusy_busy {s : State} (h : s.status.busy = true) (c : FaultCode) (w : Htw) (t : State) :
    unlessBusy s c w t = s.raise c w := by
  simp [unlessBusy, h]

theorem unlessBusy_idle {s : State} (h : s.status.busy = false) (c : FaultCode) (w : Htw) (t : State) :
    unlessBusy s c w t = t := by
  simp [unlessBusy, h]

/-- `raise` in a state without a fault: the record of R99, and nothing else. -/
theorem raise_live {s : State} (h : s.fault = none) (c : FaultCode) (w : Htw) :
    ∃ p, s.raise c w = { s with fault := some ⟨c, w, p⟩ } ∧
      (c = .reserved ∨ c = .writeRo → p = none) ∧
      (c = .writeBusy ∨ c = .readBusy ∨ c = .startBusy → p = some s.phase) := by
  unfold State.raise
  rw [h]
  refine ⟨_, rfl, ?_, ?_⟩ <;> cases c <;> simp

/-- The code that `raise` leaves in a state without a fault. -/
theorem raise_code {s : State} (h : s.fault = none) (c : FaultCode) (w : Htw) :
    (s.raise c w).fault.map (·.code) = some c := by
  obtain ⟨p, e, -, -⟩ := raise_live h c w
  rw [e]
  rfl

/-- All of OUT written at once: each byte reads as it was written. -/
theorem out_setOut (s : State) (f : Nat → Byte) (i : Fin 4096) : (s.setOut f).out i = f i.val := by
  unfold State.out
  rw [State.setOut_mem, outAddr_toNat]
  exact Memory.read_setRange_in _ 0x8000 4096 _ i.isLt

/-- Writing OUT leaves FRAME alone. -/
theorem frame_setOut (s : State) (f : Nat → Byte) (y : Fin 120) (x : Fin 128) : (s.setOut f).frame y x = s.frame y x := by
  unfold State.frame
  rw [State.setOut_mem, frameAddr_toNat]
  exact Memory.read_setRange_out _ 0x8000 4096 _ (by omega)

/-- Writing a sample of FRAME leaves OUT alone. -/
theorem out_setFrame (s : State) (y : Fin 120) (x : Fin 128) (v : Byte) (i : Fin 4096) :
    (s.setFrame y x v).out i = s.out i := by
  unfold State.out
  rw [State.setFrame_mem, outAddr_toNat, frameAddr_toNat]
  exact Memory.read_write_other _ _ (by omega)

/-- The first fault is kept (10_state.md R20). -/
theorem raise_faulted {s : State} {r : FaultRecord} (h : s.fault = some r) (c : FaultCode) (w : Htw) :
    s.raise c w = s := by
  simp [State.raise, h]

/-- The FILTER step's buffers, on SF, HF and the parameters alone. -/
theorem filterPlane_eq_applyFilter (s : State) :
    (s.applyFilter s.dec.mode).ff = filterPlane s.edgeRound s.dec s.sf := by
  simp

/-- Which agent moves. -/
theorem mover_spec (s : State) :
    (s.mover = none ↔ s.hostReady = false ∧ s.coreReady = false) ∧
    (s.mover = some .host → s.hostReady = true) ∧
    (s.mover = some .pipeline → s.coreReady = true) := by
  unfold State.mover
  cases s.hostReady <;> cases s.coreReady <;> simp

/-- Where both agents have a step and the order of events is exhausted: the pipeline agent moves if it has waited long enough,
and otherwise the host moves and the wait grows shorter (70_reset_and_hazards.md R113). -/
theorem mover_contested {s : State} (ho : s.order = []) (hh : s.hostReady = true) (hc : s.coreReady = true) :
    (s.patience = 0 ∧ s.mover = some .pipeline) ∨ (s.mover = some .host ∧ s.takeTurn.patience + 1 = s.patience) := by
  have ht : s.mover = some s.freeTurn := by simp [State.mover, hh, hc, State.turn, ho]
  cases hp : s.patience with
  | zero => exact .inl ⟨rfl, by simp [ht, State.freeTurn, hp]⟩
  | succ n =>
    refine .inr ⟨by simp [ht, State.freeTurn, hp], ?_⟩
    have hw : s.takeTurn.wait = some n := by simp [State.nextWait, ho, hh, hc, hp]
    unfold State.patience
    rw [hw]

/-- Every EDGE_ROUND is exact on multiples of 4 (43_filter_engine.md R61). -/
@[simp] theorem edgeRound_exact (e : EdgeRound) (k : Int) : Config.edgeRound e (4 * k) = k := by
  cases e <;> simp [Config.edgeRound]

/-- The pipeline agent is ready exactly when PHASE is not IDLE (46_host_operations.md R93). -/
@[simp] theorem coreReady_iff (s : State) : s.coreReady = true ↔ s.phase ≠ .idle := by
  simp [State.coreReady]

end Sys2Proof.Machine
end

