-- ==== Sys2Proof/Laws/Packer.lean ====
section
/-! SUPPORT. What one pixel does to the output buffer, bit by bit (45_tile_packer.md R74 to R76). -/

namespace Sys2Proof.Machine

/-- A color index has two bits (R73). -/
theorem colorIndex_lt (l : Level) : colorIndex l < 4 := by cases l <;> decide

/-- The bytes of a pixel lie in the image part of OUT (R74). -/
theorem tileBase_lt (y : Fin 112) (x : Fin 128) : tileBase y x + 1 < 3584 := by
  unfold tileBase; omega

/-- A pixel and its place determine one another (R78). -/
theorem tileBase_inj {y y' : Fin 112} {x x' : Fin 128} (hb : tileBase y x = tileBase y' x')
    (hk : pixelBit x = pixelBit x') : y = y' ∧ x = x' := by
  unfold tileBase at hb
  unfold pixelBit at hk
  constructor <;> ext <;> omega

/-- Whether pixel (x, y) sets bit `k` of OUT[i]. -/
def setsBit (qf : Plane Level 112) (y : Fin 112) (x : Fin 128) (i k : Nat) : Bool :=
  k == pixelBit x &&
    ((i == tileBase y x && (colorIndex (qf.at y x)).testBit 0)
      || (i == tileBase y x + 1 && (colorIndex (qf.at y x)).testBit 1))

theorem getLsbD_one_shiftLeft (b k : Nat) (hb : b < 8) : (1#8 <<< b).getLsbD k = (k == b) := by
  rw [BitVec.getLsbD_shiftLeft]
  by_cases h : k = b
  · subst h; simp [hb]
  · rw [beq_false_of_ne h]
    rcases Nat.lt_or_gt_of_ne h with h' | h'
    · simp [h']
    · rw [BitVec.getLsbD_one, decide_eq_false (by omega : ¬(k - b = 0))]
      simp

/-- Setting one bit of one byte. -/
theorem getLsbD_set_or (out : Vector Byte 4096) (j : Fin 4096) (b : Nat) (hb : b < 8) (i : Fin 4096) (k : Nat) :
    (out.set j (out[j] ||| 1#8 <<< b))[i].getLsbD k = (out[i].getLsbD k || (i == j && k == b)) := by
  by_cases h : j = i
  · subst h
    simp [getLsbD_one_shiftLeft _ _ hb]
  · have h' : j.val ≠ i.val := fun e => h (Fin.ext e)
    have h'' : (i == j) = false := beq_false_of_ne (Ne.symm h)
    simp [Vector.getElem_set_ne _ _ h', h'']

/-- One pixel sets its bits and no others. -/
theorem packPixel_bit (qf : Plane Level 112) (out : Vector Byte 4096) (y : Fin 112) (x : Fin 128) (i : Fin 4096) (k : Nat) :
    (packPixel qf out y x)[i].getLsbD k = (out[i].getLsbD k || setsBit qf y x i k) := by
  have hb := tileBase_lt y x
  have hk : pixelBit x < 8 := by unfold pixelBit; omega
  have e0 : (i == Fin.ofNat 4096 (tileBase y x)) = (i.val == tileBase y x) := by
    rw [Bool.eq_iff_iff, beq_iff_eq, beq_iff_eq, Fin.ext_iff, Fin.val_ofNat, Nat.mod_eq_of_lt (by omega)]
  have e1 : (i == Fin.ofNat 4096 (tileBase y x + 1)) = (i.val == tileBase y x + 1) := by
    rw [Bool.eq_iff_iff, beq_iff_eq, beq_iff_eq, Fin.ext_iff, Fin.val_ofNat, Nat.mod_eq_of_lt (by omega)]
  unfold packPixel setsBit
  dsimp only
  cases (colorIndex (qf.at y x)).testBit 0 <;> cases (colorIndex (qf.at y x)).testBit 1 <;>
    simp only [Bool.false_eq_true, if_false, if_true, getLsbD_set_or _ _ _ hk, e0, e1, Bool.and_true, Bool.and_false,
      Bool.or_false, Bool.false_or]
  · rw [Bool.and_comm]
  · rw [Bool.and_comm]
  · rw [Bool.or_assoc, ← Bool.and_or_distrib_right, Bool.and_comm]

/-- A loop in which every pass sets bits and clears none sets what some pass sets. -/
theorem foldl_sets {α : Type} (f : Vector Byte 4096 → α → Vector Byte 4096) (g : α → Nat → Nat → Bool)
    (h : ∀ out a (i : Fin 4096) k, (f out a)[i].getLsbD k = (out[i].getLsbD k || g a i k)) (l : List α)
    (out : Vector Byte 4096) (i : Fin 4096) (k : Nat) :
    (l.foldl f out)[i].getLsbD k = (out[i].getLsbD k || l.any fun a => g a i k) := by
  induction l generalizing out with
  | nil => simp
  | cons a l ih => rw [List.foldl_cons, ih, h, List.any_cons, Bool.or_assoc]

/-- A bit of the loop's result is 1 exactly when some pixel sets it. -/
theorem packPlane_bit (qf : Plane Level 112) (i : Fin 4096) (k : Nat) :
    (packPlane qf)[i].getLsbD k = true ↔ ∃ (y : Fin 112) (x : Fin 128), setsBit qf y x i k = true := by
  unfold packPlane
  rw [foldl_sets _ (fun y i k => (List.finRange 128).any fun x => setsBit qf y x i k)]
  · simp
  · intro out y i k
    exact foldl_sets _ _ (fun out x i k => packPixel_bit qf out y x i k) _ _ _ _

end Sys2Proof.Machine
end

