-- ==== Sys2Proof/Laws/PerInstr.lean ====
section
/-! SUPPORT. For each instruction: its word fits its format and lies in the row of spec/opcode_table.json that bears its name
(the row's RW and address ranges, mode code or phase code). -/

namespace Sys2Proof.Laws.TableRow

/-- A host row of the table: RW, and the address ranges. -/
def HostRow (i : Instr) (w : Bool) (ranges : List (Nat × Nat)) : Prop :=
  (encodeHtw i).rw = w ∧ encode i = (encodeHtw i).toNat ∧
    ∃ r ∈ ranges, r.1 ≤ (encodeHtw i).addr.toNat ∧ (encodeHtw i).addr.toNat ≤ r.2

/-- The reserved ranges of the table. -/
abbrev reservedRanges : List (Nat × Nat) := [(0x0038, 0x3FFF), (0x7C00, 0x7FFF), (0x9000, 0xFFFF)]

/-- What the table's row says of an instruction's word. -/
def Statement (i : Instr) : Prop :=
  i.wellFormed = true → encode i < 2 ^ i.format.width ∧
    match i with
    | .regWr .. => HostRow i true [(0x0000, 0x0005)]
    | .regRd .. => HostRow i false [(0x0000, 0x0005)]
    | .mtxWr .. => HostRow i true [(0x0006, 0x0035)]
    | .mtxRd .. => HostRow i false [(0x0006, 0x0035)]
    | .ctrlWr .. => HostRow i true [(0x0036, 0x0036)]
    | .ctrlRd .. => HostRow i false [(0x0036, 0x0036)]
    | .statusRd .. => HostRow i false [(0x0037, 0x0037)]
    | .statusWr .. => HostRow i true [(0x0037, 0x0037)]
    | .frameWr .. => HostRow i true [(0x4000, 0x7BFF)]
    | .frameRd .. => HostRow i false [(0x4000, 0x7BFF)]
    | .outRd .. => HostRow i false [(0x8000, 0x8FFF)]
    | .outWr .. => HostRow i true [(0x8000, 0x8FFF)]
    | .rsvRd .. => HostRow i false reservedRanges
    | .rsvWr .. => HostRow i true reservedRanges
    | .fVert1d => encode i = 0b0000
    | .fZero => encode i = 0b0001
    | .fHedgeVert1d => encode i = 0b0010
    | .fPass3 => encode i = 0b0011
    | .fPass4 => encode i = 0b0100
    | .fPass5 => encode i = 0b0101
    | .fPass6 => encode i = 0b0110
    | .fPass7 => encode i = 0b0111
    | .fPass8 => encode i = 0b1000
    | .fPass9 => encode i = 0b1001
    | .fPassA => encode i = 0b1010
    | .fPassB => encode i = 0b1011
    | .fPassC => encode i = 0b1100
    | .fPassD => encode i = 0b1101
    | .fLaplace2d => encode i = 0b1110
    | .fPassF => encode i = 0b1111
    | .frontend => encode i = 0b001
    | .filter => encode i = 0b010
    | .quantize => encode i = 0b011
    | .pack => encode i = 0b100

/-- A host row with one range holds if the address lies in it. -/
theorem hostRow_one {i : Instr} {w : Bool} {a : Addr} {d : Byte} (lo hi : Nat) (h : encodeHtw i = htw w a d)
    (he : encode i = (encodeHtw i).toNat) (hl : lo ≤ a.toNat) (hh : a.toNat ≤ hi) : HostRow i w [(lo, hi)] := by
  refine ⟨by rw [h, htw_rw], he, _, List.mem_singleton_self _, ?_⟩
  rw [h, htw_addr]
  exact ⟨hl, hh⟩

/-- A reserved access lies in one of the reserved ranges. -/
theorem hostRow_reserved {i : Instr} {w : Bool} {a : Addr} {d : Byte} (h : encodeHtw i = htw w a d)
    (he : encode i = (encodeHtw i).toNat) (hr : reservedAddr a = true) : HostRow i w reservedRanges := by
  refine ⟨by rw [h, htw_rw], he, ?_⟩
  rw [h, htw_addr]
  have := a.isLt
  simp only [reservedAddr, Bool.or_eq_true, Bool.and_eq_true, decide_eq_true_eq] at hr
  simp only [reservedRanges, List.mem_cons, List.not_mem_nil, or_false, exists_eq_or_imp, exists_eq_left]
  omega

theorem regWr (i : Fin 6) (v : Byte) : Statement (.regWr i v) := fun _ =>
  ⟨BitVec.isLt _, hostRow_one _ _ rfl rfl (by simp) (by simp; omega)⟩
theorem regRd (i : Fin 6) (data : Byte) : Statement (.regRd i data) := fun _ =>
  ⟨BitVec.isLt _, hostRow_one _ _ rfl rfl (by simp) (by simp; omega)⟩
theorem mtxWr (k : Fin 48) (v : Byte) : Statement (.mtxWr k v) := fun _ =>
  ⟨BitVec.isLt _, hostRow_one _ _ rfl rfl (by simp) (by simp; omega)⟩
theorem mtxRd (k : Fin 48) (data : Byte) : Statement (.mtxRd k data) := fun _ =>
  ⟨BitVec.isLt _, hostRow_one _ _ rfl rfl (by simp) (by simp; omega)⟩
theorem ctrlWr (v : Byte) : Statement (.ctrlWr v) := fun _ =>
  ⟨BitVec.isLt _, hostRow_one _ _ rfl rfl (by decide) (by decide)⟩
theorem ctrlRd (data : Byte) : Statement (.ctrlRd data) := fun _ =>
  ⟨BitVec.isLt _, hostRow_one _ _ rfl rfl (by decide) (by decide)⟩
theorem statusRd (data : Byte) : Statement (.statusRd data) := fun _ =>
  ⟨BitVec.isLt _, hostRow_one _ _ rfl rfl (by decide) (by decide)⟩
theorem statusWr (v : Byte) : Statement (.statusWr v) := fun _ =>
  ⟨BitVec.isLt _, hostRow_one _ _ rfl rfl (by decide) (by decide)⟩
theorem frameWr (y : Fin 120) (x : Fin 128) (v : Byte) : Statement (.frameWr y x v) := fun _ =>
  ⟨BitVec.isLt _, hostRow_one _ _ rfl rfl (by simp; omega) (by simp; omega)⟩
theorem frameRd (y : Fin 120) (x : Fin 128) (data : Byte) : Statement (.frameRd y x data) := fun _ =>
  ⟨BitVec.isLt _, hostRow_one _ _ rfl rfl (by simp; omega) (by simp; omega)⟩
theorem outRd (i : Fin 4096) (data : Byte) : Statement (.outRd i data) := fun _ =>
  ⟨BitVec.isLt _, hostRow_one _ _ rfl rfl (by simp) (by simp; omega)⟩
theorem outWr (i : Fin 4096) (v : Byte) : Statement (.outWr i v) := fun _ =>
  ⟨BitVec.isLt _, hostRow_one _ _ rfl rfl (by simp) (by simp; omega)⟩
theorem rsvRd (a : Addr) (data : Byte) : Statement (.rsvRd a data) := fun h =>
  ⟨BitVec.isLt _, hostRow_reserved rfl rfl h⟩
theorem rsvWr (a : Addr) (v : Byte) : Statement (.rsvWr a v) := fun h =>
  ⟨BitVec.isLt _, hostRow_reserved rfl rfl h⟩
theorem fVert1d : Statement .fVert1d := fun _ => ⟨by decide, rfl⟩
theorem fZero : Statement .fZero := fun _ => ⟨by decide, rfl⟩
theorem fHedgeVert1d : Statement .fHedgeVert1d := fun _ => ⟨by decide, rfl⟩
theorem fPass3 : Statement .fPass3 := fun _ => ⟨by decide, rfl⟩
theorem fPass4 : Statement .fPass4 := fun _ => ⟨by decide, rfl⟩
theorem fPass5 : Statement .fPass5 := fun _ => ⟨by decide, rfl⟩
theorem fPass6 : Statement .fPass6 := fun _ => ⟨by decide, rfl⟩
theorem fPass7 : Statement .fPass7 := fun _ => ⟨by decide, rfl⟩
theorem fPass8 : Statement .fPass8 := fun _ => ⟨by decide, rfl⟩
theorem fPass9 : Statement .fPass9 := fun _ => ⟨by decide, rfl⟩
theorem fPassA : Statement .fPassA := fun _ => ⟨by decide, rfl⟩
theorem fPassB : Statement .fPassB := fun _ => ⟨by decide, rfl⟩
theorem fPassC : Statement .fPassC := fun _ => ⟨by decide, rfl⟩
theorem fPassD : Statement .fPassD := fun _ => ⟨by decide, rfl⟩
theorem fLaplace2d : Statement .fLaplace2d := fun _ => ⟨by decide, rfl⟩
theorem fPassF : Statement .fPassF := fun _ => ⟨by decide, rfl⟩
theorem frontend : Statement .frontend := fun _ => ⟨by decide, rfl⟩
theorem filter : Statement .filter := fun _ => ⟨by decide, rfl⟩
theorem quantize : Statement .quantize := fun _ => ⟨by decide, rfl⟩
theorem pack : Statement .pack := fun _ => ⟨by decide, rfl⟩

end Sys2Proof.Laws.TableRow
end

