-- ==== Sys2Proof/Laws/Step.lean ====
section
/-! SUPPORT. What a step can do, said once: the cases of a host operation, of a pipeline stage and of a step. Every invariant
is then a case analysis over these. -/

namespace Sys2Proof.Machine

/-- An instruction that completes started in a state without a fault. -/
theorem exec_next_live {i : Instr} {s t : State} (h : exec i s = .next t) : s.fault = none := by
  cases i <;> exact (whenLive_next.1 h).1

/-- In a state without a fault every instruction completes. -/
theorem exec_live {s : State} (h : s.fault = none) (i : Instr) : ∃ t, exec i s = .next t := by
  cases i <;> exact ⟨_, whenLive_live h _⟩

/-- No instruction is refused. -/
theorem exec_not_refused (i : Instr) (s : State) (r : Refusal) : exec i s ≠ .refused r := by
  cases i <;> exact whenLive_not_refused s _ r

/-- The guard BUSY of a host write or of START: a fault while busy, the operation while idle. -/
theorem unlessBusy_cases (s : State) (c : FaultCode) (w : Htw) (t : State) :
    (s.status.busy = true ∧ unlessBusy s c w t = s.raise c w) ∨ (s.status.busy = false ∧ unlessBusy s c w t = t) := by
  cases h : s.status.busy
  · exact .inr ⟨rfl, unlessBusy_idle h c w t⟩
  · exact .inl ⟨rfl, unlessBusy_busy h c w t⟩

/-- Everything a host operation can do (46_host_operations.md R79 to R92). -/
theorem hostExec_next {i : Instr} {s t : State} (hi : i.format = .htw) (h : exec i s = .next t) :
    s.fault = none ∧
      ((∃ c, t = s.raise c (encodeHtw i)) ∨ (∃ b, t = s.returnByte b) ∨ t = s ∨
        (s.status.busy = false ∧
          ((∃ k v, i = .regWr k v ∧ t = s.setReg k v) ∨ (∃ k v, i = .mtxWr k v ∧ t = s.setThr k v) ∨
            (∃ y x v, i = .frameWr y x v ∧ t = s.setFrame y x v) ∨ (∃ v, i = .ctrlWr v ∧ t = s.startRun)))) := by
  refine ⟨exec_next_live h, ?_⟩
  cases i with
  | regWr k v =>
    obtain ⟨-, rfl⟩ := whenLive_next.1 h
    rcases unlessBusy_cases s .writeBusy (encodeHtw (.regWr k v)) (s.setReg k v) with ⟨-, e⟩ | ⟨hb, e⟩ <;> rw [e]
    · exact .inl ⟨_, rfl⟩
    · exact .inr (.inr (.inr ⟨hb, .inl ⟨k, v, rfl, rfl⟩⟩))
  | mtxWr k v =>
    obtain ⟨-, rfl⟩ := whenLive_next.1 h
    rcases unlessBusy_cases s .writeBusy (encodeHtw (.mtxWr k v)) (s.setThr k v) with ⟨-, e⟩ | ⟨hb, e⟩ <;> rw [e]
    · exact .inl ⟨_, rfl⟩
    · exact .inr (.inr (.inr ⟨hb, .inr (.inl ⟨k, v, rfl, rfl⟩)⟩))
  | frameWr y x v =>
    obtain ⟨-, rfl⟩ := whenLive_next.1 h
    rcases unlessBusy_cases s .writeBusy (encodeHtw (.frameWr y x v)) (s.setFrame y x v) with ⟨-, e⟩ | ⟨hb, e⟩ <;> rw [e]
    · exact .inl ⟨_, rfl⟩
    · exact .inr (.inr (.inr ⟨hb, .inr (.inr (.inl ⟨y, x, v, rfl, rfl⟩))⟩))
  | ctrlWr v =>
    obtain ⟨-, rfl⟩ := whenLive_next.1 h
    split_ifs
    · rcases unlessBusy_cases s .startBusy (encodeHtw (.ctrlWr v)) s.startRun with ⟨-, e⟩ | ⟨hb, e⟩ <;> rw [e]
      · exact .inl ⟨_, rfl⟩
      · exact .inr (.inr (.inr ⟨hb, .inr (.inr (.inr ⟨v, rfl, rfl⟩))⟩))
    · exact .inr (.inr (.inl rfl))
  | outRd k d =>
    obtain ⟨-, rfl⟩ := whenLive_next.1 h
    rcases unlessBusy_cases s .readBusy (encodeHtw (.outRd k d)) (s.returnByte (s.out k)) with ⟨-, e⟩ | ⟨-, e⟩ <;> rw [e]
    · exact .inl ⟨_, rfl⟩
    · exact .inr (.inl ⟨_, rfl⟩)
  | regRd | mtxRd | ctrlRd | statusRd | frameRd =>
    obtain ⟨-, rfl⟩ := whenLive_next.1 h
    exact .inr (.inl ⟨_, rfl⟩)
  | statusWr | outWr | rsvRd | rsvWr =>
    obtain ⟨-, rfl⟩ := whenLive_next.1 h
    exact .inl ⟨_, rfl⟩
  | _ => simp [Instr.format] at hi

/-- The four stages, as the pipeline agent performs them (46_host_operations.md R93). -/
theorem pipelineStep_next {s t : State} (h : pipelineStep s = .next t) :
    s.fault = none ∧
      ((s.phase = .frontend ∧ t = { s with sf := frontEnd s.frame s.dec.exposure s.dec.inv, phase := .filter }) ∨
        (s.phase = .filter ∧ t = (s.applyFilter s.dec.mode).filterDone) ∨
        (s.phase = .quantize ∧ t = { s with qf := quantize Config.matrixLayout s.matrix s.ff, phase := .pack }) ∨
        (s.phase = .pack ∧
          t = { s.setOut (packByte s.qf) with phase := .idle, status := statusComplete s.status })) := by
  unfold pipelineStep State.stage at h
  cases hp : s.phase <;> rw [hp] at h
  case idle => cases h
  all_goals
    obtain ⟨hf, ht⟩ := whenLive_next.1 (show whenLive s _ = .next t from h)
    refine ⟨hf, ?_⟩
    rw [← ht]
    simp

/-- Every state a host step leads to (30_encoding.md R40): the host goes to another statement, and a transaction is run. -/
theorem hostStep_next {s t : State} (h : hostStep s = .next t) :
    (∃ pc, t = s.hostGoto pc) ∨
      (∃ w dst u, s.hostStmt = some (.xfer w dst) ∧ exec (decodeHtw w) s = .next u ∧ t = u.hostFinish w dst) := by
  unfold hostStep at h
  split at h
  · rename_i w dst hst
    split at h
    · rename_i u hu
      exact .inr ⟨w, dst, u, hst, hu, (Host.Outcome.next.inj h).symm⟩
    · cases h
    · cases h
  · unfold State.hostBranch at h
    split_ifs at h
    · split at h
      · exact .inl ⟨_, (Host.Outcome.next.inj h).symm⟩
      · cases h
    · exact .inl ⟨_, (Host.Outcome.next.inj h).symm⟩
  · exact .inl ⟨_, (Host.Outcome.next.inj h).symm⟩
  · cases h

/-- Everything a step can do: a reset, a host step or a stage, the last two in a state without a fault. -/
theorem step_next {s t : State} (h : step s = .next t) :
    (∃ d rest, s.order = .reset d :: rest ∧ t = s.takeTurn.resetWith d) ∨
      (s.fault = none ∧ s.mover = some .host ∧ hostStep s.takeTurn = .next t) ∨
      (s.fault = none ∧ s.mover = some .pipeline ∧ pipelineStep s.takeTurn = .next t) := by
  unfold step at h
  split at h
  · rename_i d rest ho
    exact .inl ⟨d, rest, ho, (Host.Outcome.next.inj h).symm⟩
  · split at h
    · cases h
    · rename_i hf
      split at h
      · rename_i hm
        exact .inr (.inl ⟨hf, hm, h⟩)
      · rename_i hm
        exact .inr (.inr ⟨hf, hm, h⟩)
      · cases h

/-- A reset event comes first, in any state (70_reset_and_hazards.md R109). -/
theorem step_reset {s : State} {d : ResetDraw} {rest : List Event} (h : s.order = .reset d :: rest) :
    step s = .next (s.takeTurn.resetWith d) := by
  unfold step
  rw [h]

/-- A step that is no reset. -/
theorem step_of_noReset {s : State} (h : s.NoResetNext) :
    step s =
      match s.fault with
      | some r => .fault (.halted r.code)
      | none =>
        match s.mover with
        | some .host => hostStep s.takeTurn
        | some .pipeline => pipelineStep s.takeTurn
        | none => .refused .noStep := by
  unfold step
  split
  · rename_i d rest ho
    cases h (.reset d) (by rw [ho]; rfl)
  · rfl

/-- After a transaction only the host agent has moved. -/
theorem hostFinish_core (u : State) (w : Htw) (dst : Option Nat) :
    u.hostFinish w dst = { u with host := (u.hostFinish w dst).host } := by
  unfold State.hostFinish
  split <;> try rfl
  unfold State.hostAssign
  dsimp only
  split <;> rfl

/-- After a transaction the host stands at the next statement of the same script. -/
theorem hostFinish_place (u : State) (w : Htw) (dst : Option Nat) :
    (u.hostFinish w dst).host.script = u.host.script ∧ (u.hostFinish w dst).host.pc = u.host.pc + 1 := by
  unfold State.hostFinish
  split <;> try exact ⟨rfl, rfl⟩
  unfold State.hostAssign
  dsimp only
  split <;> exact ⟨rfl, rfl⟩

/-- Assigning a host variable keeps the variables canonical. -/
theorem hostFinish_vars_wf {u : State} (h : u.host.vars.wf) (w : Htw) (dst : Option Nat) :
    (u.hostFinish w dst).host.vars.wf := by
  unfold State.hostFinish
  split <;> try exact h
  unfold State.hostAssign
  dsimp only
  split
  · exact Memory.wf_write h _ _
  · exact h

/-- Every word the host can put on the bus names a host operation. -/
theorem decodeHtw_format (w : Htw) : (decodeHtw w).format = .htw := (decodeAccess_spec _ _ _).1

/-- Some number of steps: none. -/
theorem reaches_refl {s : State} {P : State → Prop} (h : P s) : Reaches s P := ⟨0, s, rfl, h⟩

/-- Some number of steps: a first one, and some more. -/
theorem reaches_step {s t : State} {P : State → Prop} (h : step s = .next t) (r : Reaches t P) : Reaches s P := by
  obtain ⟨k, u, hu, hp⟩ := r
  refine ⟨k + 1, u, ?_, hp⟩
  simp only [Host.Core.run, show core.step s = _ from h]
  exact hu

/-- Some number of steps, and then some more. -/
theorem reaches_trans {s : State} {P Q : State → Prop} (h : Reaches s P) (hq : ∀ t, P t → Reaches t Q) : Reaches s Q := by
  obtain ⟨k, t, ht, hp⟩ := h
  induction k generalizing s with
  | zero =>
    cases ht
    exact hq _ hp
  | succ k ih =>
    cases e : step s <;> simp only [Host.Core.run, show core.step s = _ from e] at ht
    · exact reaches_step e (ih ht)
    · cases ht
    · cases ht

/-- While BUSY a host operation changes nothing but the fault mark and the byte returned (60_exceptions.md R100, R101). -/
theorem hostExec_busy {i : Instr} {s t : State} (hi : i.format = .htw) (hb : s.status.busy = true)
    (h : exec i s = .next t) : t = { s with fault := t.fault, readData := t.readData } := by
  obtain ⟨hs, h'⟩ := hostExec_next hi h
  rcases h' with ⟨c, rfl⟩ | ⟨b, rfl⟩ | rfl | ⟨h, -⟩
  · obtain ⟨p, e, -, -⟩ := raise_live hs c (encodeHtw i)
    rw [e]
  · rfl
  · rfl
  · rw [hb] at h
    cases h

end Sys2Proof.Machine
end

