-- ==== Sys2Proof/Tests/Slice0.lean ====
section
/-! SUPPORT. The model's own tests: expected results from the tables and examples of spec/ (named at each test), and for
every statement with hypotheses a concrete witness that meets them together. -/

namespace Sys2Proof.Tests

open Sys2Proof Sys2Proof.Machine

/-! ## Small states -/

/-- Idle, with these configuration registers. -/
def withRegs (r0 r1 r2 r3 r4 r5 : Byte) : State := { State.reset with regs := #v[r0, r1, r2, r3, r4, r5] }

/-- Busy at a phase, in mode 0x0. -/
def busyAt (p : Phase) : State := { State.reset with phase := p, status := ⟨true, false, false, 0⟩ }

/-- Faulted, as H18 of 95_test_vectors.md leaves it. -/
def faulted : State := { State.reset with fault := some ⟨.writeRo, 0x1003700, none⟩ }

/-- The host has this script to perform. -/
def withScript (s : State) (script : List HostStmt) : State := { s with host := ⟨script, 0, []⟩ }

/-- What holds of the state that an outcome leads to. -/
def after {α : Type} (o : Host.Outcome State Fault Refusal) (f : State → α) : Option α :=
  match o with
  | .next t => some (f t)
  | .fault _ => none
  | .refused _ => none

/-- The transaction of a word, as the host puts it on the bus. -/
def bus (w : Htw) (s : State) : Host.Outcome State Fault Refusal := exec (decodeHtw w) s

/-- A signed frame from its samples. -/
def frameOf (f : Fin 120 → Fin 128 → Int) : Plane Int 120 := planeOf f

/-- An empty order of events has no reset next. -/
theorem noReset_of_nil {s : State} (h : s.order = []) : s.NoResetNext := by
  intro e he
  rw [h] at he
  cases he

/-! ## Well-formedness -/

/-- A reserved access names a reserved address (20_memory.md R23): a populated one is refused, and the borders hold. -/
theorem test_wellFormed_rsvRd :
    (Instr.rsvRd 0x0037 0).wellFormed = false ∧ (Instr.rsvRd 0x0038 0).wellFormed = true ∧
    (Instr.rsvRd 0x3FFF 0).wellFormed = true ∧ (Instr.rsvRd 0x4000 0).wellFormed = false := by decide

theorem test_wellFormed_rsvWr :
    (Instr.rsvWr 0x7BFF 0).wellFormed = false ∧ (Instr.rsvWr 0x7C00 0).wellFormed = true ∧
    (Instr.rsvWr 0x8FFF 0).wellFormed = false ∧ (Instr.rsvWr 0xFFFF 0).wellFormed = true := by decide

/-- A branch to a label that stands nowhere (30_encoding.md R40). -/
theorem test_wellFormed_script :
    scriptWellFormed [.brb 0 0 7] = false ∧ scriptWellFormed (scriptWait 7 0) = true := by decide

/-! ## Decoding, from words written out by hand (30_encoding.md R35 to R38)

A transaction word is one bit RW, four hex digits of address, two of data. -/

/-- H1, H2, H5, H7 of 95_test_vectors.md section 2.6. -/
theorem test_decode_config :
    decode .htw 0x10004FF = .ok (.regWr 4 0xFF) ∧ decode .htw 0x0000400 = .ok (.regRd 4 0) ∧
    decode .htw 0x1000640 = .ok (.mtxWr 0 0x40) ∧ decode .htw 0x0003500 = .ok (.mtxRd 47 0) := by decide

/-- H8, H14, H31, H18. -/
theorem test_decode_control :
    decode .htw 0x1003601 = .ok (.ctrlWr 0x01) ∧ decode .htw 0x0003600 = .ok (.ctrlRd 0) ∧
    decode .htw 0x0003755 = .ok (.statusRd 0x55) ∧ decode .htw 0x1003700 = .ok (.statusWr 0) := by decide

/-- H19, H20, H21, H23, H26. -/
theorem test_decode_buffers :
    decode .htw 0x14200FF = .ok (.frameWr 4 0 0xFF) ∧ decode .htw 0x0420000 = .ok (.frameRd 4 0 0) ∧
    decode .htw 0x17BFF11 = .ok (.frameWr 119 127 0x11) ∧ decode .htw 0x0800100 = .ok (.outRd 1 0) ∧
    decode .htw 0x1800000 = .ok (.outWr 0 0) := by decide

/-- H28, H29, H30. -/
theorem test_decode_reserved :
    decode .htw 0x0003800 = .ok (.rsvRd 0x0038 0) ∧ decode .htw 0x03FFF00 = .ok (.rsvRd 0x3FFF 0) ∧
    decode .htw 0x0FFFF00 = .ok (.rsvRd 0xFFFF 0) ∧ decode .htw 0x17C0000 = .ok (.rsvWr 0x7C00 0) ∧
    decode .htw 0x2000000 = .error .wordTooWide := by decide

/-- R37, all sixteen codes. -/
theorem test_decode_modes :
    decode .fmode 0b0000 = .ok .fVert1d ∧ decode .fmode 0b0001 = .ok .fZero ∧ decode .fmode 0b0010 = .ok .fHedgeVert1d ∧
    decode .fmode 0b0011 = .ok .fPass3 ∧ decode .fmode 0b0100 = .ok .fPass4 ∧ decode .fmode 0b0101 = .ok .fPass5 ∧
    decode .fmode 0b0110 = .ok .fPass6 ∧ decode .fmode 0b0111 = .ok .fPass7 ∧ decode .fmode 0b1000 = .ok .fPass8 ∧
    decode .fmode 0b1001 = .ok .fPass9 ∧ decode .fmode 0b1010 = .ok .fPassA ∧ decode .fmode 0b1011 = .ok .fPassB ∧
    decode .fmode 0b1100 = .ok .fPassC ∧ decode .fmode 0b1101 = .ok .fPassD ∧ decode .fmode 0b1110 = .ok .fLaplace2d ∧
    decode .fmode 0b1111 = .ok .fPassF := by decide

/-- R38, and R17: codes 5 to 7 are unreachable. -/
theorem test_decode_phases :
    decode .phase 1 = .ok .frontend ∧ decode .phase 2 = .ok .filter ∧ decode .phase 3 = .ok .quantize ∧
    decode .phase 4 = .ok .pack ∧ decode .phase 0 = .error .phaseIdle ∧ decode .phase 5 = .error .phaseUnreachable ∧
    decode .phase 6 = .error .phaseUnreachable ∧ decode .phase 7 = .error .phaseUnreachable := by decide

/-- The encoder writes the same words. -/
theorem test_encode :
    encode (.regWr 4 0xFF) = 0x10004FF ∧ encode (.frameRd 4 0 0) = 0x0420000 ∧ encode (.outWr 4095 0) = 0x18FFF00 ∧
    encode .fLaplace2d = 0b1110 ∧ encode .pack = 4 := by decide

/-- The host's view of a table word, and the first step after reset runs it. -/
theorem test_tableWord :
    decodeTableWord 32 0x10004FF = some (.regWr 4 0xFF) ∧ decodeTableWord 8 0xE = some .fLaplace2d ∧
    decodeTableWord 8 0x3 = some .quantize := by decide

theorem test_withFetchWord :
    after (step (State.reset.withFetchWord 32 0x10004FF)) (fun t => t.reg 4) = some 0xFF ∧
    after (step (State.reset.withFetchWord 8 0x4)) (fun t => statusByte t.status) = some 0x02 ∧
    after (step (State.reset.withFetchWord 8 0xE)) (fun t => t.phase) = some .quantize := by decide

/-! ## The register decoder (95_test_vectors.md section 2.1) -/

theorem test_decodeRegs :
    decodeRegs #v[0x00, 0x00, 0x01, 0x00, 0x00, 0x00] = ⟨0b00, 0b01, 0, 0, 0x0100, 2, 0, 0, 0x0⟩ ∧
    decodeRegs #v[0x00, 0x40, 0x12, 0x34, 0x00, 0x00] = ⟨0b00, 0b01, 0, 2, 0x1234, 2, 0, 0, 0x4⟩ ∧
    decodeRegs #v[0x00, 0x60, 0x00, 0x00, 0x58, 0x00] = ⟨0b00, 0b01, 0, 3, 0x0000, 12, 0, 1, 0x6⟩ ∧
    decodeRegs #v[0xFF, 0xFF, 0xFF, 0xFF, 0xFF, 0xFF] = ⟨0b01, 0b10, 1, 3, 0xFFFF, 20, 1, 1, 0xF⟩ ∧
    decodeRegs #v[0xF9, 0x1F, 0x00, 0x00, 0x07, 0xAA] = decodeRegs #v[0, 0, 0, 0, 0, 0] := by decide

/-- R45. -/
theorem test_gain4 :
    gain4Lut 0 = 2 ∧ gain4Lut 1 = 3 ∧ gain4Lut 2 = 4 ∧ gain4Lut 3 = 5 ∧ gain4Lut 4 = 8 ∧ gain4Lut 5 = 12 ∧
    gain4Lut 6 = 16 ∧ gain4Lut 7 = 20 := by decide

/-! ## The stages -/

/-- 95_test_vectors.md section 2.2: VA, with the truncation corners. -/
theorem test_voltageAdapt :
    voltageAdapt 0 = 48 ∧ voltageAdapt 1 = 49 ∧ voltageAdapt 7 = 53 ∧ voltageAdapt 8 = 53 ∧ voltageAdapt 127 = 128 ∧
    voltageAdapt 129 = 128 ∧ voltageAdapt 135 = 132 ∧ voltageAdapt 200 = 173 ∧ voltageAdapt 255 = 207 := by decide

/-- 95_test_vectors.md section 2.2: the whole front end. -/
theorem test_frontEndPixel :
    frontEndPixel 0x0100 0 200 = 45 ∧ frontEndPixel 0x0100 1 200 = -46 ∧ frontEndPixel 0x0100 1 128 = -1 ∧
    frontEndPixel 0x0000 0 0 = -128 ∧ frontEndPixel 0x0000 1 0 = 127 ∧ frontEndPixel 0x0080 0 200 = -42 ∧
    frontEndPixel 0x01FF 0 100 = 93 ∧ frontEndPixel 0x013B 0 255 = 126 ∧ frontEndPixel 0x013C 0 255 = 127 ∧
    frontEndPixel 0xFFFF 1 0 = -128 := by decide

/-- R49: FRONTEND writes SF and goes to FILTER; an unlisted sample is 0, so that EXPOSURE 0x0100 gives −80 (L1.1). -/
theorem test_frontend_step :
    after (exec .frontend { busyAt .frontend with dec := decodeRegs #v[0, 0, 1, 0, 0, 0] })
      (fun t => (t.sf.at 119 127, t.phase)) = some (-80, .filter) := by decide

/-- 95_test_vectors.md section 2.3, mode 0x0: the clamp, the difference with the row below, and the bottom edge. -/
theorem test_fVert1d_negates :
    after (exec .fVert1d { busyAt .filter with sf := Plane.fill 120 (-128), dec := decodeRegs #v[0, 0, 0, 0, 0, 0] })
      (fun t => (t.ff.at 3 5, t.phase)) = some (127, .quantize) := by decide

theorem test_fVert1d_difference :
    after (exec .fVert1d { busyAt .filter with
        sf := frameOf (fun y _ => if y.val = 7 then 10 else 3), dec := decodeRegs #v[4, 0, 0, 0, 0, 0] })
      (fun t => (t.ff.at 7 0, t.ff.at 6 0, t.ff.at 119 0)) = some (7, -7, 0) := by decide

/-- 95_test_vectors.md section 2.3, mode 0x2: T = 4400 clamps HF at 255 and FF at 127; the left and right edges. -/
theorem test_fHedgeVert1d_clamps :
    after (exec .fHedgeVert1d { busyAt .filter with
        sf := frameOf (fun y x => if y.val = 9 ∧ x.val = 9 then 100 else 0), dec := decodeRegs #v[2, 0x20, 0, 0, 0x70, 0] })
      (fun t => (t.hf.at 9 9, t.ff.at 9 9)) = some (255, 127) := by decide

set_option maxRecDepth 4000 in
theorem test_fHedgeVert1d_edges :
    after (exec .fHedgeVert1d { busyAt .filter with
        sf := frameOf (fun _ x => if x.val = 0 ∨ x.val = 127 then 40 else 0), dec := decodeRegs #v[2, 0x20, 0, 0, 0x20, 0] })
      (fun t => (t.ff.at 5 0, t.ff.at 5 127)) = some (80, 80) := by decide

set_option maxRecDepth 4000 in
/-- L1.4 (a): a bright pixel at raw (0,0) in mode 0xE; nothing wraps. -/
theorem test_fLaplace2d_bright :
    after (exec .fLaplace2d { busyAt .filter with
        sf := frameOf (fun y x => if y.val = 0 ∧ x.val = 0 then 79 else -80), dec := decodeRegs #v[0, 0xE0, 1, 0, 0x20, 0] })
      (fun t => (t.ff.at 0 0, t.ff.at 0 1, t.ff.at 1 0, t.ff.at 1 1, t.ff.at 0 127, t.ff.at 119 0))
      = some (127, -128, -128, -80, -80, -80) := by decide

/-- 95_test_vectors.md section 2.3, mode 0xE: −5.5 is truncated toward zero. -/
theorem test_fLaplace2d_truncates :
    after (exec .fLaplace2d { busyAt .filter with
        sf := frameOf (fun y x => if y.val = 8 ∧ x.val = 7 then -4 else -5), dec := decodeRegs #v[0, 0xE0, 0, 0, 0x00, 0] })
      (fun t => t.ff.at 8 8) = some (-5) := by decide

/-- 95_test_vectors.md section 2.3: mode 0x1 gives 0 whatever SF holds. -/
theorem test_fZero :
    after (exec .fZero { busyAt .filter with sf := Plane.fill 120 45 }) (fun t => (t.ff.at 0 0, t.ff.at 60 60)) = some (0, 0) := by
  decide

/-- 95_test_vectors.md section 2.3: the twelve unsupported modes leave every sample as it is. -/
theorem test_fPass :
    ∀ i ∈ [Instr.fPass3, .fPass4, .fPass5, .fPass6, .fPass7, .fPass8, .fPass9, .fPassA, .fPassB, .fPassC, .fPassD, .fPassF],
      after (exec i { busyAt .filter with sf := Plane.fill 120 (-80) }) (fun t => (t.ff.at 7 7, t.phase))
        = some (-80, .quantize) := by decide

/-- R55: the FILTER step takes the operation of DEC.MODE: here mode 0x1, and the unsupported mode 0x4. -/
theorem test_filter_dispatch :
    after (exec .filter { busyAt .filter with sf := Plane.fill 120 45, dec := decodeRegs #v[0, 0, 0, 0, 0x80, 0] })
      (fun t => t.ff.at 1 1) = some 0 ∧
    after (exec .filter { busyAt .filter with sf := Plane.fill 120 45, dec := decodeRegs #v[0, 0x40, 0, 0, 0, 0] })
      (fun t => t.ff.at 1 1) = some 45 := by decide

/-- 95_test_vectors.md section 2.4: LEVEL, with out-of-order thresholds. -/
theorem test_level :
    level 63 64 128 192 = .l00 ∧ level 64 64 128 192 = .l40 ∧ level 128 64 128 192 = .l80 ∧ level 192 64 128 192 = .lC0 ∧
    level 128 64 128 128 = .lC0 ∧ level 254 255 255 255 = .l00 ∧ level 255 255 255 255 = .lC0 ∧
    level 199 200 100 150 = .l00 ∧ level 200 200 100 150 = .lC0 ∧ level 130 128 64 192 = .l80 := by decide

/-- 95_test_vectors.md section 2.4: the cell of (x, y) = (5, 2) is MATRIX[27..29], and QF row 0 reads FF row 4. -/
theorem test_quantize_cell_and_crop :
    after (exec .quantize { busyAt .quantize with
        ff := frameOf (fun y _ => if y.val = 6 then -45 else 127),
        matrix := vecOf (fun k => if k.val = 27 then 64 else if k.val = 28 then 128 else if k.val = 29 then 192 else 0) })
      (fun t => (t.qf.at 2 5, t.qf.at 2 6, t.phase)) = some (.l40, .lC0, .pack) := by decide

/-- 95_test_vectors.md section 2.5: pixel to byte and bit. -/
theorem test_tileBase :
    tileBase 0 8 = 16 ∧ tileBase 1 0 = 2 ∧ tileBase 8 0 = 256 ∧ tileBase 10 9 = 276 ∧ tileBase 111 127 = 3582 ∧
    pixelBit 9 = 6 ∧ pixelBit 0 = 7 ∧ pixelBit 127 = 0 := by decide

/-- 95_test_vectors.md section 2.5: one pixel (0,0) at level 0x40, every other at 0xC0; and the tail. -/
theorem test_packByte :
    let qf : Plane Level 112 := planeOf fun y x => if y.val = 0 ∧ x.val = 0 then .l40 else .lC0
    packByte qf 0 = 0x00 ∧ packByte qf 1 = 0x80 ∧ packByte qf 2 = 0x00 ∧ packByte qf 3584 = 0x00 := by decide

/-- R94, and H16: PACK completes the invocation. -/
theorem test_pack_completes :
    after (exec .pack (busyAt .pack)) (fun t => (statusByte t.status, t.phase)) = some (0x02, .idle) := by decide

/-- P6 of 95_test_vectors.md: a vertical gradient through every stage. The levels of rows 0 to 7 of tile 0 and of tile 112. -/
theorem test_pipeline_P6 :
    let regs : Vector Byte 6 := #v[0x04, 0x00, 0x01, 0x00, 0x08, 0x00]
    let m : Vector Byte 48 := vecOf fun k => #v[(0x81 : Byte), 0x82, 0x83][Fin.ofNat 3 k.val]
    let f : Fin 120 → Fin 128 → Byte := fun y _ => BitVec.ofNat 8 (2 * y.val)
    let q := pipelineQf (Config.edgeRound .truncate) f regs m
    [0, 1, 2, 3, 4, 5, 6, 7].map (fun y => q.at (Fin.ofNat 112 y) 0) = [.l80, .l40, .l40, .l40, .l80, .l40, .l40, .l40] ∧
    [56, 57, 58, 59, 60, 61, 62, 63].map (fun y => q.at (Fin.ofNat 112 y) 0)
      = [.l80, .l40, .l40, .l40, .l40, .l40, .l40, .l80] := by decide

/-! ## Host operations and faults (95_test_vectors.md section 2.6) -/

/-- H1, H3. -/
theorem test_regWr :
    after (bus 0x10004FF State.reset) (fun t => t.reg 4) = some 0xFF ∧
    after (bus 0x1000400 (busyAt .filter)) (fun t => t.fault) = some (some ⟨.writeBusy, 0x1000400, some .filter⟩) := by decide

/-- H2, and H4: a read while busy. -/
theorem test_regRd :
    after (bus 0x0000400 (withRegs 0 0 0 0 0xFF 0)) (fun t => t.readData) = some (some 0xFF) ∧
    after (bus 0x0000400 { busyAt .pack with regs := #v[0, 0, 0, 0, 0x20, 0] }) (fun t => (t.readData, t.fault))
      = some (some 0x20, none) := by decide

/-- H5, H6. -/
theorem test_mtxWr :
    after (bus 0x1000640 State.reset) (fun t => (t.thr 0, t.thr 1)) = some (64, 0) ∧
    after (bus 0x1003500 (busyAt .frontend)) (fun t => t.fault) = some (some ⟨.writeBusy, 0x1003500, some .frontend⟩) := by decide

/-- H7. -/
theorem test_mtxRd :
    after (bus 0x0003500 { busyAt .quantize with matrix := vecOf (fun k => if k.val = 47 then 0xC0 else 0) })
      (fun t => t.readData) = some (some 0xC0) := by decide

/-- H9, H10, H11: STATUS after START. -/
theorem test_ctrlWr_start :
    after (bus 0x1003601 (withRegs 0 0x40 0 0 0 0)) (fun t => statusByte t.status) = some 0x45 ∧
    after (bus 0x1003601 (withRegs 0 0xE0 0 0 0x80 0)) (fun t => statusByte t.status) = some 0xF5 ∧
    after (bus 0x10036FF (withRegs 0 0xE0 0 0 0x20 0)) (fun t => (statusByte t.status, t.phase)) = some (0xE1, .frontend) := by
  decide

/-- H12, H13: while busy. -/
theorem test_ctrlWr_busy :
    after (bus 0x10036FE (busyAt .pack)) (fun t => (t.fault, t.phase)) = some (none, .pack) ∧
    after (bus 0x1003601 (busyAt .pack)) (fun t => t.fault) = some (some ⟨.startBusy, 0x1003601, some .pack⟩) := by decide

/-- H14. -/
theorem test_ctrlRd : after (bus 0x0003600 (busyAt .filter)) (fun t => t.readData) = some (some 0x00) := by decide

/-- H15, H17, H31. -/
theorem test_statusRd :
    after (bus 0x0003700 State.reset) (fun t => t.readData) = some (some 0x00) ∧
    after (bus 0x0003755 { State.reset with status := ⟨false, true, true, 0xF⟩ }) (fun t => t.readData) = some (some 0xF6) := by
  decide

/-- H18. -/
theorem test_statusWr :
    after (bus 0x1003700 State.reset) (fun t => t.fault) = some (some ⟨.writeRo, 0x1003700, none⟩) := by decide

/-- H19, H22. -/
theorem test_frameWr :
    after (bus 0x14200FF State.reset) (fun t => (t.frame 4 0, t.mem)) = some (0xFF, [(0x4200, 0xFF)]) ∧
    after (bus 0x1400000 (busyAt .filter)) (fun t => t.fault) = some (some ⟨.writeBusy, 0x1400000, some .filter⟩) := by decide

/-- H20, while busy. -/
theorem test_frameRd :
    after (bus 0x0420000 { busyAt .filter with mem := [(0x4200, 0xFF)] }) (fun t => t.readData) = some (some 0xFF) := by decide

/-- H23, H25. -/
theorem test_outRd :
    after (bus 0x0800100 { State.reset with mem := [(0x8001, 0xFF)] }) (fun t => t.readData) = some (some 0xFF) ∧
    after (bus 0x0800000 (busyAt .pack)) (fun t => t.fault) = some (some ⟨.readBusy, 0x0800000, some .pack⟩) := by decide

/-- H26, H27: F_WRITE_RO also while busy. -/
theorem test_outWr :
    after (bus 0x1800000 State.reset) (fun t => t.fault) = some (some ⟨.writeRo, 0x1800000, none⟩) ∧
    after (bus 0x1800000 (busyAt .pack)) (fun t => t.fault) = some (some ⟨.writeRo, 0x1800000, none⟩) := by decide

/-- H28. -/
theorem test_rsvRd :
    after (bus 0x0003800 State.reset) (fun t => t.fault) = some (some ⟨.reserved, 0x0003800, none⟩) := by decide

/-- H30. -/
theorem test_rsvWr :
    after (bus 0x17C0000 (busyAt .filter)) (fun t => t.fault) = some (some ⟨.reserved, 0x17C0000, none⟩) := by decide

/-- H32: a faulted state has no further step. -/
theorem test_faulted_halts : exec (.statusRd 0) faulted = .fault (.halted .writeRo) := rfl

/-- P5a: the read after the fault is never performed. -/
theorem test_step_faulted : step (withScript faulted [.rd 0x0000 0]) = .fault (.halted .writeRo) := rfl

/-- H33: reset of a faulted state. -/
theorem test_reset_event :
    after (step { faulted with order := [.reset ⟨#v[1, 2, 3, 4, 5, 6], Vector.replicate 48 9, [(0x4000, 7)], Dec.zero,
        Plane.fill 120 0, Plane.fill 120 0, Plane.fill 120 0, Plane.fill 112 .l00⟩] })
      (fun t => (t.fault, statusByte t.status, t.reg 5, t.thr 47, t.frame 0 0)) = some (none, 0x00, 6, 9, 7) := by decide

/-- R40: WAIT's branch is taken while bit 0 is 1 and goes on when it is 0. -/
theorem test_brb :
    after (step { State.reset with host := ⟨[.label 7, .rd 0x0037 0, .brb 0 0 7], 2, [(0, 0x01)]⟩ }) (fun t => t.host.pc) = some 0 ∧
    after (step { State.reset with host := ⟨[.label 7, .rd 0x0037 0, .brb 0 0 7], 2, [(0, 0x02)]⟩ }) (fun t => t.host.pc) = some 3 := by
  decide

/-- The refusals of PIPELINE's entry point at the end of 95_test_vectors.md section 2.6. -/
theorem test_dimension :
    (pipelineEntry (Config.edgeRound .truncate) (List.replicate 119 (List.replicate 128 0)) (List.replicate 54 0)
      = .error (.dimension (List.replicate 119 128) 54)) ∧
    (pipelineEntry (Config.edgeRound .truncate) (List.replicate 120 (List.replicate 127 0)) (List.replicate 54 0)
      = .error (.dimension (List.replicate 120 127) 54)) ∧
    (pipelineEntry (Config.edgeRound .truncate) (List.replicate 120 (List.replicate 128 0)) (List.replicate 53 0)
      = .error (.dimension (List.replicate 120 128) 53)) ∧
    (pipelineEntry (Config.edgeRound .truncate) (List.replicate 120 (List.replicate 128 0)) (List.replicate 55 0)
      = .error (.dimension (List.replicate 120 128) 55)) := by
  refine ⟨?_, ?_, ?_, ?_⟩ <;> (unfold pipelineEntry; rw [if_neg (by simp)]; simp)

/-! ## Witnesses

For each statement of Certificates/Slice0/Obligations.lean with hypotheses, a concrete state and operands that meet them
together; where it has several clauses, one for each, at the borders of the ranges. -/

/-- TransactionDecodesByTheOpcodeMap: both ends of each range of R36, and of the words; and the read while idle
and after a fault. -/
theorem test_witness_transaction_ranges :
    (0x0000 : Nat) = (0 : Fin 6).val ∧ 0x0005 = (5 : Fin 6).val ∧
    0x0006 = 0x0006 + (0 : Fin 48).val ∧ 0x0035 = 0x0006 + (47 : Fin 48).val ∧
    0x4000 = 0x4000 + 128 * (0 : Fin 120).val + (0 : Fin 128).val ∧
    0x7BFF = 0x4000 + 128 * (119 : Fin 120).val + (127 : Fin 128).val ∧
    0x8000 = 0x8000 + (0 : Fin 4096).val ∧ 0x8FFF = 0x8000 + (4095 : Fin 4096).val ∧
    [0x0038, 0x3FFF, 0x7C00, 0x7FFF, 0x9000, 0xFFFF].map (fun a => reservedAddr (BitVec.ofNat 16 a))
      = [true, true, true, true, true, true] ∧
    [0x0037, 0x4000, 0x7BFF, 0x8000, 0x8FFF].map (fun a => reservedAddr (BitVec.ofNat 16 a))
      = [false, false, false, false, false] ∧
    0xFFFF < 0x10000 ∧ 0xFF < 0x100 := by decide

theorem test_witness_transaction_read : State.reset.Live ∧ (busyAt .filter).Live ∧ faulted.fault ≠ none := by decide

/-- DecodeOfEncodeIsTheInstruction: a host operation that the check restricts, a mode and a stage. EncodeOfDecodeIsTheWord: the
largest word of each format that decodes. -/
theorem test_witness_encode :
    (Instr.rsvWr 0x9000 0xFF).wellFormed = true ∧ Instr.fPassF.wellFormed = true ∧ Instr.pack.wellFormed = true ∧
    decode .htw 0x1FFFFFF = .ok (.rsvWr 0xFFFF 0xFF) ∧ decode .fmode 0xF = .ok .fPassF ∧ decode .phase 4 = .ok .pack := by decide

/-- DecodedFieldsFollowTheRegisters: each case of PMSEL. -/
theorem test_witness_pmsel :
    [(0x00 : Byte), 0x02, 0x04, 0x06].map (fun r => r.toNat / 2 % 4) = [0, 1, 2, 3] := by decide

/-- UnusedRegisterBitsHaveNoEffect: two blocks that differ in every unused bit and in no other. -/
theorem test_witness_unused_bits :
    let r : Vector Byte 6 := #v[0xFF, 0xFF, 0x12, 0x34, 0xFF, 0xFF]
    let q : Vector Byte 6 := #v[0x06, 0xE0, 0x12, 0x34, 0xF8, 0x00]
    r ≠ q ∧ r[0] &&& 0x06#8 = q[0] &&& 0x06#8 ∧ r[1] &&& 0xE0#8 = q[1] &&& 0xE0#8 ∧ r[2] = q[2] ∧ r[3] = q[3] ∧
    r[4] &&& 0xF8#8 = q[4] &&& 0xF8#8 := by decide

/-- The statements of the stages and of the filter operations (hypothesis Live): an idle state and one at each phase. -/
theorem test_witness_live :
    State.reset.Live ∧ (busyAt .frontend).Live ∧ (busyAt .filter).Live ∧ (busyAt .quantize).Live ∧ (busyAt .pack).Live := by
  decide

/-- The statements of the host operations (hypotheses Idle, Busy, bit 0 of the data): ControlWriteStartsAnInvocation,
RegisterWriteStoresUnlessBusy and the like. -/
theorem test_witness_idle_busy :
    State.reset.Idle ∧ (busyAt .frontend).Busy ∧ (busyAt .pack).Busy ∧ (0xFE : Byte).getLsbD 0 = false ∧
    (0x01 : Byte).getLsbD 0 = true ∧ State.reset.mem.wf := by decide

/-- FilterStepPerformsTheOperationOfTheMode: a state for each mode it names, and one for an unsupported mode. ZeroModeForcesEverySampleToZero and
PassThroughCopiesAndStartWarns: START of mode 0x1 and of an unsupported mode. -/
theorem test_witness_modes :
    [(0x00, 0x00), (0x20, 0x00), (0xE0, 0x00), (0x00, 0x80), (0x40, 0x00)].map
      (fun r => ({ busyAt .filter with dec := decodeRegs #v[0, r.1, 0, 0, r.2, 0] } : State).dec.mode)
      = [(0x0 : BitVec 4), 0x2, 0xE, 0x1, 0x4] ∧
    (busyAt .filter).dec.mode ≠ 0x2 ∧ (withRegs 0 0 0 0 0x80 0).Idle ∧
    (decodeRegs (withRegs 0 0 0 0 0x80 0).regs).mode = 0x1 ∧ (withRegs 0 0x40 0 0 0 0).Idle ∧
    (decodeRegs (withRegs 0 0x40 0 0 0 0).regs).mode ∉ [(0x0 : BitVec 4), 0x1, 0x2, 0xE] := by decide

/-- R61, R62: with gain 1.00 the choice of EDGE_ROUND does not matter: the bright pixel of R62 under a free one. -/
theorem test_edgeRound_free :
    [Config.edgeRound (.free 7) (4 * (79 + (316 - 79 - 79 + 80 + 80))), Config.edgeRound (.free 7) (-80),
      Config.edgeRound .truncate (-80)] = [397, -20, -20] := by decide

/-- EdgeRoundMattersOnlyForFractionalGains: the default, and two conversions that are exact on multiples of 4 and differ. -/
theorem test_witness_edgeRound :
    State.reset.params.edgeRound = .truncate ∧ (∀ k : Int, Int.tdiv (4 * k) 4 = k) ∧ (∀ k : Int, Int.fdiv (4 * k) 4 = k) ∧
    Int.tdiv (-22) 4 ≠ Int.fdiv (-22) 4 ∧ (decodeRegs #v[0, 0xE0, 0, 0, 0x20, 0]).gain4.toNat % 4 = 0 :=
  ⟨rfl, fun k => Int.mul_tdiv_cancel_left k (by decide), fun k => Int.mul_fdiv_cancel_left k (by decide), by decide, by decide⟩

/-- FilterSumsStayInTheirRanges: the ends of the ranges. -/
theorem test_witness_sums :
    InRange (-128) 127 (Plane.fill 120 (-128)) ∧ InRange (-128) 127 (Plane.fill 120 127) ∧
    InRange 0 255 (Plane.fill 120 255) ∧ (20 : BitVec 5).toNat ≤ 20 := by
  refine ⟨fun y x => ?_, fun y x => ?_, fun y x => ?_, by decide⟩ <;> rw [at_fill] <;> decide

/-- PackedBytesHaveTheClosedFormAndItsInverse: the last byte of the image and the first of the tail. -/
theorem test_witness_packed : (3583 : Fin 4096).val < 3584 ∧ 3584 ≤ (3584 : Fin 4096).val ∧ (7 : Nat) < 8 := by decide

/-- EachTransactionRaisesTheFaultOfHighestPriority: a transaction for each clause, at the borders of its range, and the fault it
raises: reserved, read-only also while busy, write, read and start while busy, none. -/
theorem test_witness_priority :
    [(0x0003800 : Htw), 0x13FFF00, 0x07C0000, 0x17FFF00, 0x0900000, 0x1FFFF00, 0x1003700, 0x1800000, 0x18FFF00, 0x1000000,
        0x1003500, 0x1400000, 0x17BFF00, 0x0800000, 0x08FFF00, 0x1003601, 0x1003600, 0x0003600, 0x0003700, 0x07BFF00].map
      (fun w => after (bus w (busyAt .filter)) (fun t => t.fault.map (·.code)))
      = [some (some .reserved), some (some .reserved), some (some .reserved), some (some .reserved), some (some .reserved),
        some (some .reserved), some (some .writeRo), some (some .writeRo), some (some .writeRo), some (some .writeBusy),
        some (some .writeBusy), some (some .writeBusy), some (some .writeBusy), some (some .readBusy), some (some .readBusy),
        some (some .startBusy), some none, some none, some none, some none] := by decide

/-- FaultEntryIsPrecise: one fault of each kind, with its record. -/
theorem test_witness_fault_record :
    after (bus 0x1800000 (busyAt .filter)) (fun t => t.fault) = some (some ⟨.writeRo, 0x1800000, none⟩) ∧
    after (bus 0x0800000 (busyAt .filter)) (fun t => t.fault) = some (some ⟨.readBusy, 0x0800000, some .filter⟩) := by decide

/-- A reset draw that is canonical and lies in FRAME and OUT, at their borders, with samples in range. -/
def draw : ResetDraw :=
  ⟨#v[1, 2, 3, 4, 5, 6], Vector.replicate 48 9, [(0x4000, 1), (0x7BFF, 2), (0x8000, 3), (0x8FFF, 4)], Dec.zero,
    Plane.fill 120 (-128), Plane.fill 120 255, Plane.fill 120 127, Plane.fill 112 .lC0⟩

/-- FaultedStateIsLeftOnlyByReset, WithoutAStepTheModelStopsByName: a faulted state with no reset next, and with one. -/
theorem test_witness_faulted :
    faulted.fault = some ⟨.writeRo, 0x1003700, none⟩ ∧ faulted.NoResetNext ∧
    { faulted with order := [.reset draw] }.order = .reset draw :: [] :=
  ⟨rfl, noReset_of_nil rfl, rfl⟩

/-- ResetLeavesTheDrawAndAnIdleCore, ResetTouchesOnlyTheCore: reset of a busy state. -/
theorem test_witness_reset :
    { busyAt .quantize with order := [.reset draw, .host] }.order = .reset draw :: [.host] ∧ Memory.wf draw.mem ∧
    (∀ c ∈ draw.mem, inMap c.1 = true) ∧ InRange (-128) 127 draw.sf ∧ InRange 0 255 draw.hf ∧ InRange (-128) 127 draw.ff := by
  refine ⟨rfl, by decide, by decide, fun y x => ?_, fun y x => ?_, fun y x => ?_⟩ <;> rw [draw, at_fill] <;> decide

/-- NoPipelineStageFaults. -/
theorem test_witness_stage : Instr.fVert1d.format ≠ .htw ∧ Instr.pack.format ≠ .htw ∧ (busyAt .pack).Live := by decide

/-- StepRunsTheHostsTransaction: a write, a read into a variable while the pipeline agent is ready too, and a write that
faults. -/
theorem test_witness_host_transaction :
    let s := withScript State.reset [.wr 0x0004 0xFF]
    let r : State := { withScript (busyAt .filter) [.rd 0x0037 3] with order := [.host, .pipeline] }
    let f := withScript State.reset [.wr 0x0037 0x00]
    (s.Live ∧ s.NoResetNext ∧ s.mover = some .host ∧ s.hostStmt = some (.xfer 0x10004FF none)) ∧
    (f.Live ∧ f.NoResetNext ∧ f.mover = some .host ∧ f.hostStmt = some (.xfer 0x1003700 none)) ∧
    (r.Live ∧ r.NoResetNext ∧ r.mover = some .host ∧ r.hostStmt = some (.xfer 0x0003700 (some 3)) ∧ r.host.vars.wf ∧
      Htw.rw 0x0003700 = false ∧ ∃ u, exec (decodeHtw 0x0003700) r.takeTurn = .next u ∧ u.fault = none) := by
  refine ⟨⟨rfl, noReset_of_nil rfl, rfl, by decide⟩, ⟨rfl, noReset_of_nil rfl, rfl, by decide⟩, rfl, ?_, rfl, by decide, by decide, by decide, _, rfl, rfl⟩
  · intro e he
    obtain rfl : Event.host = e := Option.some.inj he
    rfl

/-- Both agents have a step, and the order names this event next. -/
def contested (e : Event) : State := { withScript (busyAt .pack) [.rd 0x0037 0] with order := [e] }

/-- StepRunsTheStageThatPhaseNames: the pipeline agent alone at each phase, and both agents ready with either named next. -/
theorem test_witness_stage_step :
    (∀ p ∈ [Phase.frontend, .filter, .quantize, .pack], (busyAt p).Live ∧ (busyAt p).mover = some .pipeline ∧
      (busyAt p).hostReady = false) ∧
    (∀ e ∈ [Event.host, .pipeline],
      (contested e).Live ∧ (contested e).hostReady = true ∧ (contested e).phase ≠ .idle ∧ (contested e).order = e :: []) := by
  decide

/-- BranchChangesOnlyTheHostsPlace: not taken, taken, and taken to a label that stands nowhere. -/
theorem test_witness_branch :
    let s := fun (l : Nat) (v : Byte) => { State.reset with host := ⟨[.label 7, .brb 0 7 l], 1, [(0, v)]⟩ }
    (∀ l v, (s l v).Live ∧ (s l v).NoResetNext ∧ (s l v).mover = some .host ∧ (s l v).hostStmt = some (.brb 0 7 l)) ∧
    ((s 7 0x7F).host.vars.read 0).getLsbD 7 = false ∧ ((s 7 0x80).host.vars.read 0).getLsbD 7 = true ∧
    findLabel 7 (s 7 0x80).host.script = some 0 ∧ findLabel 8 (s 8 0x80).host.script = none :=
  ⟨fun _ _ => ⟨rfl, noReset_of_nil rfl, rfl, rfl⟩, by decide, by decide, by decide, by decide⟩

/-- LabelMovesTheHostToTheNextStatement: the label of a WAIT. -/
theorem test_witness_label :
    let s := withScript State.reset (scriptWait 7 0)
    s.Live ∧ s.NoResetNext ∧ s.mover = some .host ∧ s.hostStmt = some (.label 7) :=
  ⟨rfl, noReset_of_nil rfl, rfl, rfl⟩

/-- WithoutAStepTheModelStopsByName. -/
theorem test_witness_final : (withScript State.reset []).Final ∧ (withScript State.reset []).NoResetNext :=
  ⟨by decide, noReset_of_nil rfl⟩

/-- HostOperationsLeavePhaseAndOutput: START, which changes PHASE, and a write, which does not. -/
theorem test_witness_host_operations :
    exec (decodeHtw 0x1003601) State.reset = .next State.reset.startRun ∧
    exec (decodeHtw 0x10004FF) State.reset = .next (State.reset.setReg 4 0xFF) := ⟨rfl, rfl⟩

/-- StatusIsWrittenOnlyByStartAndCompletion, OnlyPackWritesOutput: a step of each of the three cases, and a PACK step that
changes a byte of OUT. -/
theorem test_witness_status :
    (∃ t, step (withScript State.reset [.start]) = .next t) ∧ (∃ t, step (withScript State.reset [.wr 0x0004 0xFF]) = .next t) ∧
    (∃ t, step (busyAt .pack) = .next t ∧ t.out 0 ≠ (busyAt .pack).out 0) := by
  refine ⟨⟨_, rfl⟩, ⟨_, rfl⟩, _, rfl, ?_⟩
  have h : State.out { (busyAt .pack).takeTurn.setOut (packByte (Plane.fill 112 .l00)) with
      phase := .idle, status := statusComplete (busyAt .pack).status } 0 = packByte (Plane.fill 112 .l00) 0 :=
    out_setOut _ _ 0
  intro e
  exact absurd (h.symm.trans e) (by decide)

/-- ConfigurationIsFixedWhileBusy, StepKeepsControlLegal: a legal busy state that steps. -/
theorem test_witness_control :
    (busyAt .filter).NoResetNext ∧ (busyAt .filter).ControlInv ∧ (busyAt .filter).status.busy = true ∧
    ∃ t, step (busyAt .filter) = .next t :=
  ⟨noReset_of_nil rfl, ⟨by decide, by decide, by decide⟩, rfl, _, rfl⟩

/-- HostReadSeesTheLatestWrite: the borders of the two ranges, and two addresses next to one another. -/
theorem test_witness_write_then_read :
    State.reset.Idle ∧ State.reset.mem.wf ∧
    [(0x0000 : Addr), 0x0035, 0x4000, 0x7BFF].map (fun a =>
      decide (a.toNat ≤ 0x0035 ∨ (0x4000 ≤ a.toNat ∧ a.toNat ≤ 0x7BFF))) = [true, true, true, true] ∧
    (0x0036 : Addr) ≠ 0x0035 ∧ reservedAddr 0x0036 = false ∧ reservedAddr 0x8000 = false := by decide

/-- StepKeepsMemoryCanonical: a step that writes FRAME where OUT and FRAME already list cells. -/
theorem test_witness_memory :
    let s := withScript { State.reset with mem := [(0x4001, 5), (0x8000, 3)] } [.wr 0x4000 0x01]
    s.MemoryInv ∧ ∃ t, step s = .next t :=
  ⟨⟨by decide, by decide, by decide⟩, _, rfl⟩

/-- StepKeepsSamplesInRange: the FILTER step of mode 0x2 on a frame of the smallest sample. -/
theorem test_witness_samples :
    let s := { busyAt .filter with sf := Plane.fill 120 (-128), dec := { Dec.zero with mode := 0x2 } }
    s.SampleInv ∧ ∃ t, step s = .next t := by
  refine ⟨⟨fun y x => ?_, fun y x => ?_, fun y x => ?_⟩, _, rfl⟩
  · show _ ≤ (Plane.fill 120 (-128 : Int)).at y x ∧ (Plane.fill 120 (-128 : Int)).at y x ≤ _
    rw [at_fill]; decide
  all_goals
    show _ ≤ (Plane.fill 120 (0 : Int)).at y x ∧ (Plane.fill 120 (0 : Int)).at y x ≤ _
    rw [at_fill]; decide

/-- A state before PACK that a run reaches: the latch and QF are those of the registers, FRAME and MATRIX. -/
def beforePack : State :=
  { busyAt .pack with
    dec := decodeRegs State.reset.regs
    qf := pipelineQf (Config.edgeRound .truncate) State.reset.frame State.reset.regs State.reset.matrix }

/-- StepKeepsTheInvocationOnCourse, TheStepThatClearsBusyDeliversThePipelinesOutput. -/
theorem test_witness_invocation :
    beforePack.NoResetNext ∧ beforePack.ControlInv ∧ beforePack.InvocationInv ∧ beforePack.status.busy = true ∧
    ∃ t, step beforePack = .next t ∧ t.status.busy = false := by
  refine ⟨noReset_of_nil rfl, ⟨by decide, by decide, by decide⟩, ⟨fun _ => ⟨rfl, rfl⟩, ?_, ?_, fun _ => rfl⟩, rfl, _, rfl, rfl⟩
  · intro h; cases h
  · intro h; cases h

/-- InvocationComputesThePipelineFunction: START of the DEFAULT configuration; a frame and a block of the right sizes, and of
a wrong one. -/
theorem test_witness_pipeline :
    (withRegs 0 0 1 0 0 0).Idle ∧ (0x01 : Byte).getLsbD 0 = true ∧
    ((List.replicate 120 (List.replicate 128 (0 : Byte))).length = 120 ∧
      (∀ row ∈ List.replicate 120 (List.replicate 128 (0 : Byte)), row.length = 128) ∧
      (List.replicate 54 (0 : Byte)).length = 54) ∧
    ¬((List.replicate 119 (List.replicate 128 (0 : Byte))).length = 120) := by
  refine ⟨by decide, by decide, ⟨by simp, fun row h => ?_, by simp⟩, by simp⟩
  rw [(List.mem_replicate.1 h).2]; simp

/-- InvocationCompletesInFourSteps. -/
theorem test_witness_four_steps :
    (busyAt .frontend).Live ∧ (busyAt .frontend).hostReady = false ∧ (busyAt .frontend).phase = .frontend ∧
    (busyAt .frontend).NoResetAhead :=
  ⟨rfl, rfl, rfl, by decide⟩

/-- R113: where both agents have a step and no event is left, the host moves until the wait is over. -/
theorem test_wait :
    let s : Nat → State := fun n => { withScript (busyAt .pack) [.rd 0x0037 0] with wait := some n }
    (s 0).mover = some .pipeline ∧ (s 0).takeTurn.wait = none ∧
    (s 1).mover = some .host ∧ (s 1).takeTurn.wait = some 0 := by decide

/-- PipelineAgentIsWeaklyFair, EveryInvocationCompletes: an invocation at its first stage and one at its last, in each the host
polling STATUS and named next by two events. -/
def polling (p : Phase) : State := { withScript (busyAt p) (scriptWait 7 0) with order := [.host, .host] }

theorem test_witness_fairness :
    ∀ p ∈ [Phase.frontend, .pack], (polling p).Live ∧ (polling p).ControlInv ∧ (polling p).phase ≠ .idle ∧
      (polling p).NoResetAhead := by
  simp only [State.ControlInv]
  decide

/-- EveryInvocationCompletes: a state on course that a run reaches. -/
theorem test_witness_on_course : beforePack.Live ∧ beforePack.phase ≠ .idle ∧ beforePack.NoResetAhead ∧ beforePack.InvocationInv :=
  ⟨rfl, by decide, by decide, test_witness_invocation.2.2.1⟩

/-- WaitLoopEnds: at a WAIT while busy and while idle, and at one that stands later in a script. -/
theorem test_witness_wait :
    (∀ s ∈ [polling .frontend, withScript State.reset (scriptWait 7 0),
        { polling .filter with host := ⟨.start :: scriptWait 7 0, 1, []⟩ }],
      s.Live ∧ s.ControlInv ∧ s.host.vars.wf ∧ s.NoResetAhead ∧ s.AtWait 7 0) ∧
    (polling .frontend).phase ≠ .idle := by
  simp only [State.ControlInv, State.AtWait]
  decide

end Sys2Proof.Tests
end

section
/-! The state's invariants (10_state.md R14, R16, R17, R19, R21): what each kind of step does to STATUS and PHASE, to the hidden
samples and to OUT, said once per kind of step, and the obligations that follow. -/

namespace Sys2Proof.Machine

/-- A step that is no reset is a step of the agent that moves. -/
theorem step_next_noReset {s t : State} (hn : s.NoResetNext) (h : step s = .next t) :
    (s.mover = some .host ∧ hostStep s.takeTurn = .next t) ∨
      (s.mover = some .pipeline ∧ pipelineStep s.takeTurn = .next t) := by
  obtain ⟨d, rest, ho, -⟩ | ⟨-, hm, ht⟩ | ⟨-, hm, ht⟩ := step_next h
  · cases hn (.reset d) (by rw [ho]; rfl)
  · exact .inl ⟨hm, ht⟩
  · exact .inr ⟨hm, ht⟩

/-! ## STATUS and PHASE -/

/-- Only a write of CTRL with bit 0 set can start a run (46_host_operations.md R83). -/
theorem ctrlWr_control {v : Byte} {s t : State} (h : exec (.ctrlWr v) s = .next t) :
    SameControl s t ∨ (v.getLsbD 0 = true ∧ s.status.busy = false ∧ t = s.startRun) := by
  obtain ⟨-, rfl⟩ := whenLive_next.1 h
  split_ifs with hv
  · obtain ⟨-, e⟩ | ⟨hb, e⟩ := unlessBusy_cases s .startBusy (encodeHtw (.ctrlWr v)) s.startRun
    · rw [e]; exact .inl ⟨by simp, by simp⟩
    · exact .inr ⟨hv, hb, e⟩
  · exact .inl ⟨rfl, rfl⟩

/-- A host operation leaves STATUS and PHASE alone unless it is a START while idle. -/
theorem hostExec_control {i : Instr} {s t : State} (hi : i.format = .htw) (h : exec i s = .next t) :
    SameControl s t ∨
      ∃ v, i = .ctrlWr v ∧ v.getLsbD 0 = true ∧ s.status.busy = false ∧ t = s.startRun := by
  obtain ⟨-, ⟨c, rfl⟩ | ⟨b, rfl⟩ | rfl | ⟨-, ⟨k, v, -, rfl⟩ | ⟨k, v, -, rfl⟩ | ⟨y, x, v, -, rfl⟩ | ⟨v, rfl, -⟩⟩⟩ :=
    hostExec_next hi h
  case inr.inr.inr.inr.inr.inr => exact (ctrlWr_control h).imp_right fun hs => ⟨v, rfl, hs⟩
  all_goals exact .inl ⟨by simp, by simp⟩

/-- A host step leaves STATUS and PHASE alone unless its statement is such a START. -/
theorem hostStep_control {s t : State} (h : hostStep s = .next t) :
    SameControl s t ∨
      ∃ w dst v, s.hostStmt = some (.xfer w dst) ∧ decodeHtw w = .ctrlWr v ∧ v.getLsbD 0 = true ∧
        s.status.busy = false ∧ t.status = statusStart (decodeRegs s.regs) ∧ t.phase = .frontend := by
  obtain ⟨pc, rfl⟩ | ⟨w, dst, u, hst, hu, rfl⟩ := hostStep_next h
  · exact .inl ⟨rfl, rfl⟩
  · obtain ⟨hs, hp⟩ | ⟨v, hw, hv, hb, rfl⟩ := hostExec_control (decodeHtw_format w) hu
    · exact .inl ⟨by simp [hs], by simp [hp]⟩
    · exact .inr ⟨w, dst, v, hst, hw, hv, hb, by simp, by simp⟩

/-- A stage leads from a stage to the next and leaves STATUS alone; PACK completes the invocation (46_host_operations.md R94). -/
theorem pipelineStep_control {s t : State} (h : pipelineStep s = .next t) :
    (s.phase ≠ .idle ∧ t.phase ≠ .idle ∧ t.status = s.status) ∨
      (s.phase = .pack ∧ t.phase = .idle ∧ t.status = statusComplete s.status) := by
  obtain ⟨-, ⟨hp, rfl⟩ | ⟨hp, rfl⟩ | ⟨hp, rfl⟩ | ⟨hp, rfl⟩⟩ := pipelineStep_next h
  case inr.inr.inr => exact .inr ⟨hp, rfl, rfl⟩
  all_goals exact .inl ⟨by simp [hp], by simp, by simp⟩

/-- The control invariant speaks of STATUS and PHASE alone. -/
theorem controlInv_of_sameControl {s t : State} (hi : s.ControlInv) (h : SameControl s t) : t.ControlInv := by
  obtain ⟨hs, hp⟩ := h
  unfold State.ControlInv
  rwa [hs, hp]

theorem controlInv_of_start {t : State} {d : Dec} (hs : t.status = statusStart d) (hp : t.phase = .frontend) :
    t.ControlInv := by
  simp [State.ControlInv, hs, hp, statusStart]

theorem controlInv_of_complete {s t : State} (hi : s.ControlInv) (hp : t.phase = .idle)
    (hs : t.status = statusComplete s.status) : t.ControlInv := by
  obtain ⟨-, -, hw⟩ := hi
  simp [State.ControlInv, hs, hp, statusComplete, hw]

theorem controlInv_resetWith (s : State) (d : ResetDraw) : (s.resetWith d).ControlInv := by
  simp only [State.ControlInv, State.resetWith_status, State.resetWith_phase]
  decide

theorem pipelineStep_keeps_controlInv {s t : State} (hi : s.ControlInv) (h : pipelineStep s = .next t) : t.ControlInv := by
  obtain ⟨hp, hp', hs⟩ | ⟨-, hp', hs⟩ := pipelineStep_control h
  · obtain ⟨hb, hrest⟩ := hi
    unfold State.ControlInv
    rw [hs]
    exact ⟨iff_of_true (hb.2 hp) hp', hrest⟩
  · exact controlInv_of_complete hi hp' hs

/-- Settles O46: reset, START and the completion of PACK each establish the control invariant, a stage before PACK stays busy,
and no other step touches STATUS or PHASE. -/
theorem stepKeepsControlLegal : Obligations.StepKeepsControlLegal := by
  intro s t hi h
  have hturn : s.takeTurn.ControlInv := controlInv_of_sameControl hi ⟨rfl, rfl⟩
  obtain ⟨d, rest, -, rfl⟩ | ⟨-, -, ht⟩ | ⟨-, -, ht⟩ := step_next h
  · exact controlInv_resetWith _ d
  · obtain hc | ⟨-, -, -, -, -, -, -, hs, hp⟩ := hostStep_control ht
    · exact controlInv_of_sameControl hturn hc
    · exact controlInv_of_start hs hp
  · exact pipelineStep_keeps_controlInv hturn ht

/-- Settles O41: the STATUS part of what a host step and a stage do. -/
theorem statusIsWrittenOnlyByStartAndCompletion : Obligations.StatusIsWrittenOnlyByStartAndCompletion := by
  intro s t hn h
  obtain ⟨hm, ht⟩ | ⟨hm, ht⟩ := step_next_noReset hn h
  · obtain ⟨hs, -⟩ | ⟨w, dst, v, hst, hw, hv, hb, hs, -⟩ := hostStep_control ht
    · exact .inl hs
    · exact .inr (.inl ⟨w, dst, v, hm, hst, hw, hv, hb, hs⟩)
  · obtain ⟨-, -, hs⟩ | ⟨hp, -, hs⟩ := pipelineStep_control ht
    · exact .inl hs
    · exact .inr (.inr ⟨hm, hp, hs⟩)

/-! ## The hidden samples -/

theorem inRange_planeOf {h : Nat} {lo hi : Int} {f : Fin h → Fin 128 → Int} (hf : ∀ y x, lo ≤ f y x ∧ f y x ≤ hi) :
    InRange lo hi (planeOf f) := fun y x => by
  rw [at_planeOf]
  exact hf y x

theorem inRange_fill {h : Nat} {lo hi a : Int} (hl : lo ≤ a) (hh : a ≤ hi) : InRange lo hi (Plane.fill h a) := fun y x => by
  rw [at_fill]
  exact ⟨hl, hh⟩

/-- Whatever a sample's formula, clamping it puts the whole frame in the range. -/
theorem inRange_clamped {h : Nat} {lo hi : Int} (hlh : lo ≤ hi) (f : Fin h → Fin 128 → Int) :
    InRange lo hi (planeOf fun y x => clamp lo (f y x) hi) :=
  inRange_planeOf fun _ _ => clamp_range lo _ hi hlh

/-- R49 to R53: a scaled sample, inverted or not, is a byte, and the shift brings it into the signed domain. -/
theorem frontEndPixel_range (e : BitVec 16) (i : BitVec 1) (v : Byte) :
    -128 ≤ frontEndPixel e i v ∧ frontEndPixel e i v ≤ 127 := by
  have hve : 0 ≤ exposureScale (voltageAdapt v) e ∧ exposureScale (voltageAdapt v) e ≤ 255 :=
    clamp_range 0 _ 255 (by decide)
  unfold frontEndPixel domainShift invertSample
  split_ifs <;> omega

theorem inRange_frontEnd (frame : Fin 120 → Fin 128 → Byte) (e : BitVec 16) (i : BitVec 1) :
    InRange (-128) 127 (frontEnd frame e i) :=
  inRange_planeOf fun _ _ => frontEndPixel_range e i _

/-- R59: the clamp bounds HF whatever EDGE_ROUND answers. -/
theorem inRange_hedge (er : Int → Int) (a : Plane Int 120) (g : BitVec 5) : InRange 0 255 (hedge er a g) :=
  inRange_clamped (by decide) _

/-- R55: every operation but the pass-through clamps or zeroes, and the pass-through copies SF. -/
theorem inRange_filterPlane (er : Int → Int) (d : Dec) {sf : Plane Int 120} (h : InRange (-128) 127 sf) :
    InRange (-128) 127 (filterPlane er d sf) := by
  have hv : ∀ a : Plane Int 120, InRange (-128) 127 (vert1d a d.p d.m) := fun _ => inRange_clamped (by decide) _
  unfold filterPlane
  split_ifs
  · exact hv _
  · exact hv _
  · exact inRange_clamped (by decide) _
  · exact inRange_planeOf fun _ _ => by decide
  · exact inRange_planeOf h

theorem filterStep_keeps_sampleInv {s : State} (hi : s.SampleInv) (m : BitVec 4) :
    (s.applyFilter m).filterDone.SampleInv := by
  obtain ⟨hsf, hhf, -⟩ := hi
  refine ⟨by simpa using hsf, ?_, by simpa using inRange_filterPlane _ _ hsf⟩
  rw [State.filterDone_hf, State.applyFilter_hf]
  split_ifs
  · exact inRange_hedge _ _ _
  · exact hhf

/-- No host step writes a hidden buffer. -/
theorem hostStep_samples {s t : State} (h : hostStep s = .next t) : t.sf = s.sf ∧ t.hf = s.hf ∧ t.ff = s.ff := by
  obtain ⟨pc, rfl⟩ | ⟨w, dst, u, -, hu, rfl⟩ := hostStep_next h
  · exact ⟨rfl, rfl, rfl⟩
  · obtain ⟨-, ⟨c, rfl⟩ | ⟨b, rfl⟩ | rfl | ⟨-, ⟨k, v, -, rfl⟩ | ⟨k, v, -, rfl⟩ | ⟨y, x, v, -, rfl⟩ | ⟨v, -, rfl⟩⟩⟩ :=
      hostExec_next (decodeHtw_format w) hu
    all_goals simp

theorem pipelineStep_keeps_sampleInv {s t : State} (hi : s.SampleInv) (h : pipelineStep s = .next t) : t.SampleInv := by
  obtain ⟨-, ⟨-, rfl⟩ | ⟨-, rfl⟩ | ⟨-, rfl⟩ | ⟨-, rfl⟩⟩ := pipelineStep_next h
  · obtain ⟨-, hhf, hff⟩ := hi
    exact ⟨inRange_frontEnd _ _ _, hhf, hff⟩
  · exact filterStep_keeps_sampleInv hi _
  · exact hi
  · exact hi

theorem sampleInv_resetWith (s : State) (d : ResetDraw) : (s.resetWith d).SampleInv :=
  ⟨inRange_clamped (by decide) _, inRange_clamped (by decide) _, inRange_clamped (by decide) _⟩

/-- Settles O47: reset brings the draw into the ranges, each stage writes samples in the range of its buffer, and the host
writes none. -/
theorem stepKeepsSamplesInRange : Obligations.StepKeepsSamplesInRange := by
  intro s t hi h
  obtain ⟨d, rest, -, rfl⟩ | ⟨-, -, ht⟩ | ⟨-, -, ht⟩ := step_next h
  · exact sampleInv_resetWith _ d
  · obtain ⟨hsf, hhf, hff⟩ := hostStep_samples ht
    unfold State.SampleInv
    rw [hsf, hhf, hff]
    exact hi
  · exact pipelineStep_keeps_sampleInv (s := s.takeTurn) hi ht

/-! ## OUT -/

/-- OUT is part of memory. -/
theorem out_of_mem_eq {s t : State} (h : t.mem = s.mem) (i : Fin 4096) : t.out i = s.out i := by
  unfold State.out
  rw [h]

/-- No host operation writes OUT: the one that writes memory writes FRAME. -/
theorem hostExec_out {i : Instr} {s t : State} (hi : i.format = .htw) (h : exec i s = .next t) (k : Fin 4096) :
    t.out k = s.out k := by
  obtain ⟨-, ⟨c, rfl⟩ | ⟨b, rfl⟩ | rfl | ⟨-, ⟨j, v, -, rfl⟩ | ⟨j, v, -, rfl⟩ | ⟨y, x, v, -, rfl⟩ | ⟨v, -, rfl⟩⟩⟩ :=
    hostExec_next hi h
  case inr.inr.inr.inr.inr.inl => exact out_setFrame s y x v k
  all_goals exact out_of_mem_eq (by simp) k

theorem hostStep_out {s t : State} (h : hostStep s = .next t) (k : Fin 4096) : t.out k = s.out k := by
  obtain ⟨pc, rfl⟩ | ⟨w, dst, u, -, hu, rfl⟩ := hostStep_next h
  · rfl
  · exact (out_of_mem_eq (by simp) k).trans (hostExec_out (decodeHtw_format w) hu k)

/-- The stages before PACK leave all of memory alone. -/
theorem pipelineStep_mem {s t : State} (h : pipelineStep s = .next t) : s.phase = .pack ∨ t.mem = s.mem := by
  obtain ⟨-, ⟨-, rfl⟩ | ⟨-, rfl⟩ | ⟨-, rfl⟩ | ⟨hp, -⟩⟩ := pipelineStep_next h
  · exact .inr rfl
  · exact .inr (by simp)
  · exact .inr rfl
  · exact .inl hp

/-- Settles O43: a byte of OUT that changed was written by no host step and by no stage before PACK. -/
theorem onlyPackWritesOutput : Obligations.OnlyPackWritesOutput := by
  rintro s t hn h ⟨i, hne⟩
  obtain ⟨-, ht⟩ | ⟨hm, ht⟩ := step_next_noReset hn h
  · exact absurd (hostStep_out ht i) hne
  · obtain hp | hmem := pipelineStep_mem ht
    · exact ⟨hm, hp⟩
    · exact absurd (out_of_mem_eq hmem i) hne

/-! ## The state after reset -/

theorem memoryInv_reset : State.reset.MemoryInv :=
  ⟨⟨.nil, by simp [State.reset]⟩, by simp [State.reset], ⟨.nil, by simp [State.reset]⟩⟩

theorem sampleInv_reset : State.reset.SampleInv :=
  ⟨inRange_fill (by decide) (by decide), inRange_fill (by decide) (by decide), inRange_fill (by decide) (by decide)⟩

/-- An idle core has no invocation that could be off course. -/
theorem invocationInv_of_idle {s : State} (h : s.phase = .idle) : s.InvocationInv := by
  simp [State.InvocationInv, h]

theorem controlInv_reset : State.reset.ControlInv := by
  unfold State.ControlInv
  decide

/-- Settles O39: the fixed values of R21, and each invariant of the state that they and empty memory establish. -/
theorem resetStateIsIdle : Obligations.ResetStateIsIdle :=
  ⟨⟨rfl, rfl⟩, by decide, rfl, memoryInv_reset, controlInv_reset, sampleInv_reset, invocationInv_of_idle rfl⟩

end Sys2Proof.Machine
end

section
/-! The memory map (20_memory.md R23, R28, R30, R32, R33): what each kind of step does to memory and to the configuration, what a
host read of any address returns, and that the loop of PACK and its closed form write the same bytes. -/

namespace Sys2Proof.Machine

/-! ## Memory stays canonical -/

theorem inMap_frameAddr (y : Fin 120) (x : Fin 128) : inMap (frameAddr y x).toNat = true := by
  simp only [inMap, Config.frameBase, Config.frameBytes, frameAddr_toNat, Bool.or_eq_true, Bool.and_eq_true, decide_eq_true_eq]
  omega

theorem inMap_out {i : Nat} (h : i < 4096) : inMap (0x8000 + i) = true := by
  simp only [inMap, Config.outBase, Config.outBytes, Bool.or_eq_true, Bool.and_eq_true, decide_eq_true_eq]
  omega

/-- The memory invariant speaks of memory and the host's variables alone. -/
theorem memoryInv_of_eq {s t : State} (hi : s.MemoryInv) (hm : t.mem = s.mem) (hh : t.host = s.host) : t.MemoryInv := by
  unfold State.MemoryInv
  rwa [hm, hh]

theorem memoryInv_setFrame {s : State} (hi : s.MemoryInv) (y : Fin 120) (x : Fin 128) (v : Byte) :
    (s.setFrame y x v).MemoryInv := by
  obtain ⟨hwf, hmap, hvars⟩ := hi
  exact ⟨Memory.wf_write hwf _ _,
    Memory.forall_write (p := fun a => inMap a = true) hmap (inMap_frameAddr y x) v, hvars⟩

theorem memoryInv_setOut {s : State} (hi : s.MemoryInv) (f : Nat → Byte) : (s.setOut f).MemoryInv := by
  obtain ⟨hwf, hmap, hvars⟩ := hi
  exact ⟨Memory.wf_setRange hwf _ _ _,
    Memory.forall_setRange (p := fun a => inMap a = true) hmap (fun _ => inMap_out) f, hvars⟩

theorem memoryInv_hostFinish {s : State} (hi : s.MemoryInv) (w : Htw) (dst : Option Nat) :
    (s.hostFinish w dst).MemoryInv := by
  obtain ⟨hwf, hmap, hvars⟩ := hi
  unfold State.MemoryInv
  rw [State.hostFinish_mem]
  exact ⟨hwf, hmap, hostFinish_vars_wf hvars w dst⟩

/-- The host operation that writes memory writes a sample of FRAME. -/
theorem hostExec_keeps_memoryInv {i : Instr} {s t : State} (hi : i.format = .htw) (hm : s.MemoryInv)
    (h : exec i s = .next t) : t.MemoryInv := by
  obtain ⟨-, ⟨c, rfl⟩ | ⟨b, rfl⟩ | rfl | ⟨-, ⟨k, v, -, rfl⟩ | ⟨k, v, -, rfl⟩ | ⟨y, x, v, -, rfl⟩ | ⟨v, -, rfl⟩⟩⟩ :=
    hostExec_next hi h
  case inr.inr.inr.inr.inr.inl => exact memoryInv_setFrame hm y x v
  all_goals exact memoryInv_of_eq hm (by simp) (by simp)

theorem hostStep_keeps_memoryInv {s t : State} (hm : s.MemoryInv) (h : hostStep s = .next t) : t.MemoryInv := by
  obtain ⟨pc, rfl⟩ | ⟨w, dst, u, -, hu, rfl⟩ := hostStep_next h
  · exact hm
  · exact memoryInv_hostFinish (hostExec_keeps_memoryInv (decodeHtw_format w) hm hu) w dst

/-- Of the stages PACK alone writes memory, and it writes OUT. -/
theorem pipelineStep_keeps_memoryInv {s t : State} (hm : s.MemoryInv) (h : pipelineStep s = .next t) : t.MemoryInv := by
  obtain ⟨-, ⟨-, rfl⟩ | ⟨-, rfl⟩ | ⟨-, rfl⟩ | ⟨-, rfl⟩⟩ := pipelineStep_next h
  · exact hm
  · exact memoryInv_of_eq hm (by simp) (by simp)
  · exact hm
  · exact memoryInv_setOut hm _

theorem memoryInv_resetWith {s : State} (hm : s.MemoryInv) (d : ResetDraw) : (s.resetWith d).MemoryInv := by
  obtain ⟨-, -, hvars⟩ := hm
  obtain ⟨hwf, hmap⟩ := Memory.ofCells_wf d.mem
  exact ⟨hwf, hmap, hvars⟩

/-- Settles O45: a reset builds memory from its draw cell by cell, the host writes samples of FRAME and its own variables, and
PACK writes OUT; each of these keeps the canonical form. -/
theorem stepKeepsMemoryCanonical : Obligations.StepKeepsMemoryCanonical := by
  intro s t hi h
  have hturn : s.takeTurn.MemoryInv := memoryInv_of_eq hi rfl rfl
  obtain ⟨d, rest, -, rfl⟩ | ⟨-, -, ht⟩ | ⟨-, -, ht⟩ := step_next h
  · exact memoryInv_resetWith hturn d
  · exact hostStep_keeps_memoryInv hturn ht
  · exact pipelineStep_keeps_memoryInv hturn ht

/-! ## The loop of PACK and its closed form (45_tile_packer.md R72, R78) -/

/-- R78: byte `i` and bit `k` determine the one pixel that can set the bit, and the plane they hold. -/
theorem setsBit_iff (qf : Plane Level 112) (y : Fin 112) (x : Fin 128) (i k : Nat) :
    setsBit qf y x i k = true ↔
      i < 3584 ∧ k < 8 ∧ y.val = byteRow i ∧ x.val = byteCol i (7 - k) ∧
        (colorIndex (qf.at y x)).testBit (i % 2) = true := by
  have hplace : ∀ p < 2, (k = pixelBit x ∧ i = tileBase y x + p) ↔
      (i < 3584 ∧ k < 8 ∧ y.val = byteRow i ∧ x.val = byteCol i (7 - k) ∧ i % 2 = p) := by
    intro p hp
    unfold pixelBit tileBase byteRow byteCol
    omega
  have h0 := hplace 0 (by decide)
  have h1 := hplace 1 (by decide)
  simp only [setsBit, Bool.and_eq_true, Bool.or_eq_true, beq_iff_eq, and_or_left, ← and_assoc, Nat.add_zero] at h0 h1 ⊢
  rw [h0, h1]
  obtain hm | hm := Nat.mod_two_eq_zero_or_one i <;> simp [hm]

/-- A loop that sets the bits of one byte sets what some pass sets. -/
theorem foldl_setBits (p : Nat → Bool) (l : List Nat) (b : Byte) (k : Nat) :
    (l.foldl (fun b c => if p c then b ||| (1#8 <<< (7 - c)) else b) b).getLsbD k =
      (b.getLsbD k || l.any fun c => p c && k == 7 - c) := by
  induction l generalizing b with
  | nil => simp
  | cons c l ih =>
    rw [List.foldl_cons, ih, List.any_cons]
    cases p c
    · simp
    · simp [getLsbD_one_shiftLeft (7 - c) k (by omega), Bool.or_assoc]

/-- R78: a bit of the closed form is the plane bit of the pixel it stands for. -/
theorem packByte_bit (qf : Plane Level 112) (i : Nat) {k : Nat} (hk : k < 8) :
    (packByte qf i).getLsbD k = true ↔
      i < 3584 ∧ planeBit qf (byteRow i) (byteCol i (7 - k)) (i % 2) = true := by
  unfold packByte
  split_ifs with hi
  · rw [foldl_setBits (fun c => planeBit qf (byteRow i) (byteCol i c) (i % 2))]
    simp only [BitVec.ofNat_eq_ofNat, BitVec.getLsbD_zero, Bool.false_or, List.any_eq_true, List.mem_range, Bool.and_eq_true, beq_iff_eq]
    constructor
    · rintro ⟨c, hc, hp, rfl⟩
      rw [show 7 - (7 - c) = c by omega]
      exact ⟨hi, hp⟩
    · rintro ⟨-, hp⟩
      exact ⟨7 - k, by omega, hp, by omega⟩
  · simp [hi]

/-- R72, R78: the loop over the pixels leaves the bytes of the closed form. -/
theorem packPlane_eq_packByte (qf : Plane Level 112) (i : Fin 4096) : (packPlane qf)[i] = packByte qf i := by
  apply BitVec.eq_of_getLsbD_eq
  intro k hk
  rw [Bool.eq_iff_iff, packPlane_bit, packByte_bit qf i hk]
  simp only [setsBit_iff]
  constructor
  · rintro ⟨y, x, hi, -, hy, hx, hbit⟩
    refine ⟨hi, ?_⟩
    rw [planeBit, ← hy, ← hx]
    simpa using hbit
  · rintro ⟨hi, hbit⟩
    have hy : byteRow i < 112 := by unfold byteRow; omega
    have hx : byteCol i (7 - k) < 128 := by unfold byteCol; omega
    refine ⟨Fin.ofNat 112 (byteRow i), Fin.ofNat 128 (byteCol i (7 - k)), hi, hk, ?_, ?_, hbit⟩
    · exact Nat.mod_eq_of_lt hy
    · exact Nat.mod_eq_of_lt hx

/-- A host step cannot clear BUSY. -/
theorem hostStep_keeps_busy {s t : State} (hb : s.status.busy = true) (h : hostStep s = .next t) :
    t.status.busy = true := by
  obtain ⟨hs, -⟩ | ⟨-, -, -, -, -, -, -, hs, -⟩ := hostStep_control h
  · rw [hs, hb]
  · rw [hs, statusStart]

/-- A stage that clears BUSY is PACK: it sets DONE and writes the bytes of R72's loop. -/
theorem pipelineStep_clears_busy {s t : State} (hb : s.status.busy = true) (h : pipelineStep s = .next t)
    (hb' : t.status.busy = false) :
    s.phase = .pack ∧ t.status.done = true ∧ ∀ i : Fin 4096, t.out i = (packPlane s.qf)[i] := by
  obtain ⟨-, ⟨-, rfl⟩ | ⟨-, rfl⟩ | ⟨-, rfl⟩ | ⟨hp, rfl⟩⟩ := pipelineStep_next h
  case inr.inr.inr =>
    refine ⟨hp, rfl, fun i => ?_⟩
    rw [packPlane_eq_packByte]
    exact out_setOut s _ i
  all_goals simp [hb] at hb'

/-- Settles O49: the step that clears BUSY is PACK, and the invocation invariant says that PACK finds PIPELINE's QF. -/
theorem theStepThatClearsBusyDeliversThePipelinesOutput :
    Obligations.TheStepThatClearsBusyDeliversThePipelinesOutput := by
  intro s t hn _ hinv hb h hb'
  obtain ⟨-, ht⟩ | ⟨-, ht⟩ := step_next_noReset hn h
  · rw [hostStep_keeps_busy (s := s.takeTurn) hb ht] at hb'
    cases hb'
  · obtain ⟨hp, hdone, hout⟩ := pipelineStep_clears_busy (s := s.takeTurn) hb ht hb'
    obtain ⟨-, -, -, hqf⟩ := hinv
    refine ⟨hp, hdone, fun i => ?_⟩
    rw [hout i, State.takeTurn_qf, hqf hp, pipeline]

/-! ## The configuration is fixed while BUSY (20_memory.md R33) -/

/-- FRAME is part of memory. -/
theorem frame_of_mem_eq {s t : State} (h : t.mem = s.mem) (y : Fin 120) (x : Fin 128) : t.frame y x = s.frame y x := by
  unfold State.frame
  rw [h]

/-- While BUSY a host step writes neither the configuration nor memory. -/
theorem hostStep_busy_config {s t : State} (hb : s.status.busy = true) (h : hostStep s = .next t) :
    SameConfig s t ∧ t.mem = s.mem := by
  obtain ⟨pc, rfl⟩ | ⟨w, dst, u, -, hu, rfl⟩ := hostStep_next h
  · exact ⟨⟨rfl, rfl⟩, rfl⟩
  · rw [hostExec_busy (decodeHtw_format w) hb hu]
    exact ⟨⟨by simp, by simp⟩, by simp⟩

/-- No stage writes the configuration or FRAME. -/
theorem pipelineStep_config {s t : State} (h : pipelineStep s = .next t) :
    SameConfig s t ∧ ∀ y x, t.frame y x = s.frame y x := by
  obtain ⟨-, ⟨-, rfl⟩ | ⟨-, rfl⟩ | ⟨-, rfl⟩ | ⟨-, rfl⟩⟩ := pipelineStep_next h
  · exact ⟨⟨rfl, rfl⟩, fun _ _ => rfl⟩
  · exact ⟨⟨by simp, by simp⟩, frame_of_mem_eq (by simp)⟩
  · exact ⟨⟨rfl, rfl⟩, fun _ _ => rfl⟩
  · exact ⟨⟨rfl, rfl⟩, frame_setOut s _⟩

/-- Settles O42: the guard BUSY keeps the host from writing, and the stages write hidden buffers and OUT. -/
theorem configurationIsFixedWhileBusy : Obligations.ConfigurationIsFixedWhileBusy := by
  intro s t hn _ hb h
  obtain ⟨-, ht⟩ | ⟨-, ht⟩ := step_next_noReset hn h
  · obtain ⟨⟨hregs, hmatrix⟩, hmem⟩ := hostStep_busy_config (s := s.takeTurn) hb ht
    exact ⟨hregs, hmatrix, frame_of_mem_eq hmem⟩
  · obtain ⟨⟨hregs, hmatrix⟩, hframe⟩ := pipelineStep_config ht
    exact ⟨hregs, hmatrix, hframe⟩

/-! ## The byte at a host address (20_memory.md R23) -/

/-- What an idle core returns to a read of an address that is not reserved. -/
def State.busByte (s : State) (a : Nat) : Byte :=
  if h : a < 6 then s.reg ⟨a, h⟩
  else if h : a < 0x36 then s.thr ⟨a - 6, by omega⟩
  else if a = 0x36 then 0
  else if a = 0x37 then statusByte s.status
  else s.mem.read a

theorem busByte_reg (s : State) (i : Fin 6) : s.busByte i = s.reg i := by
  simp [State.busByte]

theorem busByte_thr (s : State) (k : Fin 48) : s.busByte (6 + k) = s.thr k := by
  rw [State.busByte, dif_neg (by omega), dif_pos (by omega)]
  simp

theorem busByte_mem (s : State) {a : Nat} (h : 0x37 < a) : s.busByte a = s.mem.read a := by
  rw [State.busByte, dif_neg (by omega), dif_neg (by omega), if_neg (by omega), if_neg (by omega)]

/-- A read of an idle core returns the byte at its address (46_host_operations.md R80 to R89). -/
theorem exec_read_idle {s : State} (hs : s.Idle) {a : Addr} (ha : reservedAddr a = false) (d : Byte) :
    exec (decodeHtw (htw false a d)) s = .next (s.returnByte (s.busByte a.toNat)) := by
  obtain ⟨hf, hb⟩ := hs
  rw [decodeHtw_htw]
  obtain ⟨i, h⟩ | ⟨k, h⟩ | h | h | ⟨y, x, h⟩ | ⟨i, h⟩ | h := addr_cases a
  · rw [decodeAccess_reg h, h, busByte_reg]
    exact whenLive_live hf _
  · rw [decodeAccess_mtx h, h, busByte_thr]
    exact whenLive_live hf _
  · rw [decodeAccess_ctrl h, h]
    exact whenLive_live hf _
  · rw [decodeAccess_status h, h]
    exact whenLive_live hf _
  · rw [decodeAccess_frame h, busByte_mem s (by omega), h, ← frameAddr_toNat]
    exact whenLive_live hf _
  · rw [decodeAccess_out h, busByte_mem s (by omega), h, ← outAddr_toNat]
    refine (whenLive_live hf _).trans ?_
    rw [unlessBusy_idle hb]
    rfl
  · rw [ha] at h
    cases h

theorem busByte_setReg (s : State) (i : Fin 6) (v : Byte) (a : Nat) :
    (s.setReg i v).busByte a = if i.val = a then v else s.busByte a := by
  by_cases h : a < 6
  · simp only [State.busByte, dif_pos h, State.reg, State.setReg_regs, Fin.getElem_fin, Vector.getElem_set]
  · rw [if_neg (by omega)]
    simp only [State.busByte, dif_neg h, State.thr, State.setReg_matrix, State.setReg_status, State.setReg_mem]

theorem busByte_setThr (s : State) (k : Fin 48) (v : Byte) (a : Nat) :
    (s.setThr k v).busByte a = if 6 + k.val = a then v else s.busByte a := by
  by_cases h : 6 ≤ a ∧ a < 0x36
  · have hk : (k.val = a - 6) = (6 + k.val = a) := by ext; omega
    simp only [State.busByte, dif_neg (Nat.not_lt.2 h.1), dif_pos h.2, State.thr, State.setThr_matrix, Fin.getElem_fin,
      Vector.getElem_set, hk]
  · rw [if_neg (by omega)]
    by_cases h6 : a < 6
    · simp only [State.busByte, dif_pos h6, State.reg, State.setThr_regs]
    · simp only [State.busByte, dif_neg h6, dif_neg (by omega : ¬a < 0x36), State.setThr_status, State.setThr_mem]

theorem busByte_setFrame {s : State} (hwf : s.mem.wf) (y : Fin 120) (x : Fin 128) (v : Byte) (a : Nat) :
    (s.setFrame y x v).busByte a = if (frameAddr y x).toNat = a then v else s.busByte a := by
  split_ifs with h
  · rw [← h, busByte_mem _ (by rw [frameAddr_toNat]; omega), State.setFrame_mem, Memory.read_write_same hwf]
  · simp only [State.busByte, State.reg, State.thr, State.setFrame_regs, State.setFrame_matrix, State.setFrame_status,
      State.setFrame_mem, Memory.read_write_other _ v (Ne.symm h)]

/-- A write of an idle core leaves it idle and changes the byte at its address, and no other (46_host_operations.md R79, R81,
R87). -/
theorem exec_write_idle {s : State} (hs : s.Idle) (hwf : s.mem.wf) {a : Addr}
    (ha : a.toNat ≤ 0x0035 ∨ (0x4000 ≤ a.toNat ∧ a.toNat ≤ 0x7BFF)) (v : Byte) :
    Completes (exec (decodeHtw (htw true a v)) s) fun t =>
      t.Idle ∧ ∀ a', t.busByte a' = if a.toNat = a' then v else s.busByte a' := by
  obtain ⟨hf, hb⟩ := hs
  have hdone : ∀ (c : FaultCode) (w : Htw) (t : State), whenLive s (unlessBusy s c w t) = .next t := fun c w t => by
    rw [unlessBusy_idle hb, whenLive_live hf]
  rw [decodeHtw_htw]
  obtain ⟨i, h⟩ | ⟨k, h⟩ | h | h | ⟨y, x, h⟩ | ⟨i, h⟩ | h := addr_cases a
  · rw [decodeAccess_reg h, h]
    exact ⟨s.setReg i v, hdone _ _ _, ⟨hf, hb⟩, busByte_setReg s i v⟩
  · rw [decodeAccess_mtx h, h]
    exact ⟨s.setThr k v, hdone _ _ _, ⟨hf, hb⟩, busByte_setThr s k v⟩
  · omega
  · omega
  · rw [decodeAccess_frame h, h, ← frameAddr_toNat]
    exact ⟨s.setFrame y x v, hdone _ _ _, ⟨hf, hb⟩, busByte_setFrame hwf y x v⟩
  · omega
  · simp only [reservedAddr, Bool.or_eq_true, Bool.and_eq_true, decide_eq_true_eq] at h
    omega

theorem reservedAddr_of_writable {a : Addr} (ha : a.toNat ≤ 0x0035 ∨ (0x4000 ≤ a.toNat ∧ a.toNat ≤ 0x7BFF)) :
    reservedAddr a = false := by
  rw [Bool.eq_false_iff]
  simp only [reservedAddr, ne_eq, Bool.or_eq_true, Bool.and_eq_true, decide_eq_true_eq]
  omega

/-- Settles O44: before and after the write a read returns the byte at its address, and the write changes the one it names. -/
theorem hostReadSeesTheLatestWrite : Obligations.HostReadSeesTheLatestWrite := by
  intro s a v hs hwf ha
  obtain ⟨t, ht, hidle, hbyte⟩ := exec_write_idle hs hwf ha v
  refine ⟨t, ht, ⟨_, exec_read_idle hidle (reservedAddr_of_writable ha) 0, ?_⟩, fun a' hne ha' => ?_⟩
  · simp [hbyte]
  · have hne' : a.toNat ≠ a'.toNat := fun e => hne (BitVec.eq_of_toNat_eq e.symm)
    exact ⟨_, exec_read_idle hs ha' 0, _, exec_read_idle hidle ha' 0, by simp [hbyte, hne']⟩

end Sys2Proof.Machine
end

section
/-! The encodings (30_encoding.md R35 to R38, R40): the encoder and the three decoders are inverse to each other, what a host
read does with its ignored byte, and what one step of the host does. -/

namespace Sys2Proof.Machine

/-! ## The encoder undoes the transaction decoder, and is undone by it -/

/-- The word of a host operation as a number is its transaction word. -/
theorem encode_of_htw {i : Instr} (hi : i.format = .htw) : encode i = (encodeHtw i).toNat := by
  cases i <;> cases hi <;> rfl

/-- R36: each host operation's word carries the address of its row. -/
theorem decodeHtw_encodeHtw {i : Instr} (hi : i.format = .htw) (hw : i.wellFormed = true) :
    decodeHtw (encodeHtw i) = i := by
  cases i with
  | regWr k _ | regRd k _ => exact (decodeHtw_htw ..).trans (decodeAccess_reg (regAddr_toNat k))
  | mtxWr k _ | mtxRd k _ => exact (decodeHtw_htw ..).trans (decodeAccess_mtx (mtxAddr_toNat k))
  | ctrlWr | ctrlRd => exact (decodeHtw_htw ..).trans (decodeAccess_ctrl rfl)
  | statusWr | statusRd => exact (decodeHtw_htw ..).trans (decodeAccess_status rfl)
  | frameWr y x _ | frameRd y x _ => exact (decodeHtw_htw ..).trans (decodeAccess_frame (frameAddr_toNat y x))
  | outWr k _ | outRd k _ => exact (decodeHtw_htw ..).trans (decodeAccess_out (outAddr_toNat k))
  | rsvWr | rsvRd => exact (decodeHtw_htw ..).trans (decodeAccess_rsv hw)
  | _ => cases hi

/-- R35, R36: the row an access names keeps RW, the address and the data byte. -/
theorem encodeHtw_decodeAccess (rw' : Bool) (a : Addr) (d : Byte) : encodeHtw (decodeAccess rw' a d) = htw rw' a d := by
  obtain ⟨i, h⟩ | ⟨k, h⟩ | h | h | ⟨y, x, h⟩ | ⟨i, h⟩ | h := addr_cases a
  · obtain rfl : a = regAddr i := BitVec.eq_of_toNat_eq (h.trans (regAddr_toNat i).symm)
    rw [decodeAccess_reg h]
    cases rw' <;> rfl
  · obtain rfl : a = mtxAddr k := BitVec.eq_of_toNat_eq (h.trans (mtxAddr_toNat k).symm)
    rw [decodeAccess_mtx h]
    cases rw' <;> rfl
  · obtain rfl : a = ctrlAddr := BitVec.eq_of_toNat_eq h
    rw [decodeAccess_ctrl h]
    cases rw' <;> rfl
  · obtain rfl : a = statusAddr := BitVec.eq_of_toNat_eq h
    rw [decodeAccess_status h]
    cases rw' <;> rfl
  · obtain rfl : a = frameAddr y x := BitVec.eq_of_toNat_eq (h.trans (frameAddr_toNat y x).symm)
    rw [decodeAccess_frame h]
    cases rw' <;> rfl
  · obtain rfl : a = outAddr i := BitVec.eq_of_toNat_eq (h.trans (outAddr_toNat i).symm)
    rw [decodeAccess_out h]
    cases rw' <;> rfl
  · rw [decodeAccess_rsv h]
    cases rw' <;> rfl

/-- R36, R39: every transaction word names a well-formed operation. -/
theorem decodeHtw_wellFormed (w : Htw) : (decodeHtw w).wellFormed = true := (decodeAccess_spec _ _ _).2

theorem encodeHtw_decodeHtw (w : Htw) : encodeHtw (decodeHtw w) = w :=
  (encodeHtw_decodeAccess _ _ _).trans (htw_fields w)

/-! ## Mode codes and phase codes -/

/-- R37: the code of a filter operation names it. -/
theorem decodeMode_encode {i : Instr} (hi : i.format = .fmode) : decodeMode (BitVec.ofNat 4 (encode i)) = i := by
  cases i <;> cases hi <;> rfl

/-- R37: each of the 16 codes names a filter operation that has this code. -/
theorem encode_decodeMode (m : BitVec 4) :
    (decodeMode m).format = .fmode ∧ (decodeMode m).wellFormed = true ∧ encode (decodeMode m) = m.toNat := by
  revert m
  decide

/-- R38: the code of a stage selects it. -/
theorem decodePhase_encode {i : Instr} (hi : i.format = .phase) : decodePhase (BitVec.ofNat 3 (encode i)) = .ok i := by
  cases i <;> cases hi <;> rfl

/-- R38: a code that selects a stage is the code of that stage. -/
theorem encode_of_decodePhase {p : BitVec 3} {i : Instr} (h : decodePhase p = .ok i) :
    i.format = .phase ∧ i.wellFormed = true ∧ encode i = p.toNat := by
  unfold decodePhase at h
  split at h <;> cases h <;> exact ⟨rfl, rfl, by simp [encode, *]⟩

/-! ## The three formats together -/

/-- The word of every instruction fits its format. -/
theorem encode_lt (i : Instr) : encode i < 2 ^ i.format.width := by
  cases hi : i.format with
  | htw =>
    rw [encode_of_htw hi]
    exact BitVec.isLt _
  | fmode => cases i <;> cases hi <;> decide
  | phase => cases i <;> cases hi <;> decide

/-- A word that decodes fits its format. -/
theorem lt_of_decode {f : Format} {w : Nat} {i : Instr} (h : decode f w = .ok i) : w < 2 ^ f.width := by
  unfold decode at h
  split_ifs at h with hlt
  exact hlt

theorem decode_htw {w : Nat} (h : w < 2 ^ 25) : decode .htw w = .ok (decodeHtw (BitVec.ofNat 25 w)) := if_pos h
theorem decode_fmode {w : Nat} (h : w < 2 ^ 4) : decode .fmode w = .ok (decodeMode (BitVec.ofNat 4 w)) := if_pos h
theorem decode_phase {w : Nat} (h : w < 2 ^ 3) : decode .phase w = decodePhase (BitVec.ofNat 3 w) := if_pos h

/-- Settles O3: in each format the decoder undoes the encoder. -/
theorem decodeOfEncodeIsTheInstruction : Obligations.DecodeOfEncodeIsTheInstruction := by
  intro i hw
  have hlt := encode_lt i
  cases hi : i.format <;> rw [hi] at hlt
  case htw => rw [decode_htw hlt, encode_of_htw hi, BitVec.ofNat_toNat, BitVec.setWidth_eq, decodeHtw_encodeHtw hi hw]
  case fmode => rw [decode_fmode hlt, decodeMode_encode hi]
  case phase => rw [decode_phase hlt, decodePhase_encode hi]

/-- Settles O4: in each format the encoder undoes the decoder. -/
theorem encodeOfDecodeIsTheWord : Obligations.EncodeOfDecodeIsTheWord := by
  intro f w i h
  have hlt := lt_of_decode h
  have htoNat : (BitVec.ofNat f.width w).toNat = w := Nat.mod_eq_of_lt hlt
  cases f with
  | htw =>
    obtain rfl := Except.ok.inj ((decode_htw hlt).symm.trans h)
    have hf := decodeHtw_format (BitVec.ofNat 25 w)
    refine ⟨hf, decodeHtw_wellFormed _, ?_⟩
    rw [encode_of_htw hf, encodeHtw_decodeHtw]
    exact htoNat
  | fmode =>
    obtain rfl := Except.ok.inj ((decode_fmode hlt).symm.trans h)
    obtain ⟨hf, hw, he⟩ := encode_decodeMode (BitVec.ofNat 4 w)
    exact ⟨hf, hw, he.trans htoNat⟩
  | phase =>
    obtain ⟨hf, hw, he⟩ := encode_of_decodePhase ((decode_phase hlt).symm.trans h)
    exact ⟨hf, hw, he.trans htoNat⟩

/-! ## What a host read does with its ignored byte -/

/-- R36, R99: a read in a state without a fault returns a byte or faults, and its data byte stands in the fault's record
only. -/
theorem exec_read_cases {s : State} (hs : s.Live) (a : Addr) :
    (∃ b, ∀ d, exec (decodeAccess false a d) s = .next (s.returnByte b)) ∨
      ∃ c, ∀ d, exec (decodeAccess false a d) s = .next (s.raise c (htw false a d)) := by
  obtain ⟨i, h⟩ | ⟨k, h⟩ | h | h | ⟨y, x, h⟩ | ⟨i, h⟩ | h := addr_cases a
  · exact .inl ⟨s.reg i, fun d => by rw [decodeAccess_reg h]; exact whenLive_live hs _⟩
  · exact .inl ⟨s.thr k, fun d => by rw [decodeAccess_mtx h]; exact whenLive_live hs _⟩
  · exact .inl ⟨0, fun d => by rw [decodeAccess_ctrl h]; exact whenLive_live hs _⟩
  · exact .inl ⟨statusByte s.status, fun d => by rw [decodeAccess_status h]; exact whenLive_live hs _⟩
  · exact .inl ⟨s.frame y x, fun d => by rw [decodeAccess_frame h]; exact whenLive_live hs _⟩
  · obtain rfl : a = outAddr i := BitVec.eq_of_toNat_eq (h.trans (outAddr_toNat i).symm)
    have hread : ∀ d, exec (decodeAccess false (outAddr i) d) s =
        .next (unlessBusy s .readBusy (htw false (outAddr i) d) (s.returnByte (s.out i))) := fun d => by
      rw [decodeAccess_out h]
      exact whenLive_live hs _
    cases hb : s.status.busy
    · exact .inl ⟨s.out i, fun d => by rw [hread, unlessBusy_idle hb]⟩
    · exact .inr ⟨.readBusy, fun d => by rw [hread, unlessBusy_busy hb]⟩
  · exact .inr ⟨.reserved, fun d => by rw [decodeAccess_rsv h]; exact whenLive_live hs _⟩

/-- Two faults of one code differ in the word they record alone. -/
theorem raise_differs_in_record {s : State} (hs : s.Live) (c : FaultCode) (w w' : Htw) :
    { s.raise c w with fault := none } = { s.raise c w' with fault := none } ∧
      (s.raise c w).fault.map (·.code) = (s.raise c w').fault.map (·.code) := by
  obtain ⟨p, e, -, -⟩ := raise_live hs c w
  obtain ⟨p', e', -, -⟩ := raise_live hs c w'
  rw [e, e']
  exact ⟨rfl, rfl⟩

/-- R101: every instruction stops in a faulted state. -/
theorem exec_halted {s : State} {r : FaultRecord} (h : s.fault = some r) (i : Instr) :
    exec i s = .fault (.halted r.code) := by
  cases i <;> exact whenLive_halted h _

/-- R35: the word written out as a number, decoded. -/
theorem decodeHtw_ofNat (rw' : Bool) {a d : Nat} (ha : a < 0x10000) (hd : d < 0x100) :
    decodeHtw (BitVec.ofNat 25 (rw'.toNat * 0x1000000 + 0x100 * a + d)) =
      decodeAccess rw' (BitVec.ofNat 16 a) (BitVec.ofNat 8 d) := by
  rw [← decodeHtw_htw]
  congr 1
  apply BitVec.eq_of_toNat_eq
  rw [htw_toNat, BitVec.toNat_ofNat, BitVec.toNat_ofNat, BitVec.toNat_ofNat]
  cases rw' <;> simp only [Bool.toNat_true, Bool.toNat_false] <;> omega

/-- Settles O2: by the range each address lies in, and the two outcomes of a read. -/
theorem transactionDecodesByTheOpcodeMap : Obligations.TransactionDecodesByTheOpcodeMap := by
  intro a d ha hd wr rd b
  have hwr : wr = decodeAccess true (BitVec.ofNat 16 a) b := by
    simpa only [Bool.toNat_true, one_mul] using decodeHtw_ofNat true ha hd
  have hread : ∀ {d}, d < 0x100 → decodeHtw (BitVec.ofNat 25 (0x100 * a + d)) =
      decodeAccess false (BitVec.ofNat 16 a) (BitVec.ofNat 8 d) := fun {d} hd => by
    simpa only [Bool.toNat_false, zero_mul, zero_add] using decodeHtw_ofNat false ha hd
  have hrd : rd = decodeAccess false (BitVec.ofNat 16 a) b := hread hd
  have haddr : (BitVec.ofNat 16 a).toNat = a := Nat.mod_eq_of_lt ha
  rw [hwr, hrd]
  refine ⟨fun i h => ?_, fun k h => ?_, fun h => ?_, fun h => ?_, fun y x h => ?_, fun i h => ?_, fun h => ?_, ?_⟩
  · exact ⟨decodeAccess_reg (haddr.trans h), decodeAccess_reg (haddr.trans h)⟩
  · exact ⟨decodeAccess_mtx (haddr.trans h), decodeAccess_mtx (haddr.trans h)⟩
  · exact ⟨decodeAccess_ctrl (haddr.trans h), decodeAccess_ctrl (haddr.trans h)⟩
  · exact ⟨decodeAccess_status (haddr.trans h), decodeAccess_status (haddr.trans h)⟩
  · exact ⟨decodeAccess_frame (haddr.trans h), decodeAccess_frame (haddr.trans h)⟩
  · exact ⟨decodeAccess_out (haddr.trans h), decodeAccess_out (haddr.trans h)⟩
  · have hr : reservedAddr (BitVec.ofNat 16 a) = true := by
      simp only [reservedAddr, haddr, Bool.or_eq_true, Bool.and_eq_true, decide_eq_true_eq]
      omega
    exact ⟨decodeAccess_rsv hr, decodeAccess_rsv hr⟩
  · intro rd0
    have hrd0 : rd0 = decodeAccess false (BitVec.ofNat 16 a) 0 := hread (d := 0) (by decide)
    rw [hrd0]
    refine ⟨fun s hs => ?_, fun s hs => ?_⟩
    · obtain ⟨v, hv⟩ | ⟨c, hc⟩ := exec_read_cases hs (BitVec.ofNat 16 a)
      · exact ⟨_, _, hv b, hv 0, rfl, rfl⟩
      · exact ⟨_, _, hc b, hc 0, raise_differs_in_record hs c _ _⟩
    · obtain ⟨r, hr⟩ := Option.ne_none_iff_exists'.1 hs
      rw [exec_halted hr, exec_halted hr]

/-- Settles O1: the decoders, run on the words. -/
theorem specWordsDecodeToTheirInstructions : Obligations.SpecWordsDecodeToTheirInstructions :=
  ⟨rfl, rfl, rfl, rfl, rfl, rfl, rfl, rfl, rfl, rfl, rfl, rfl, rfl, rfl, rfl, rfl, rfl, rfl, rfl, rfl, rfl, rfl⟩

/-! ## A step of the host, by the statement it stands at (R40) -/

/-- A step in which the host moves. -/
theorem step_host {s : State} (hs : s.Live) (hn : s.NoResetNext) (hm : s.mover = some .host) :
    step s = hostStep s.takeTurn := by
  rw [step_of_noReset hn, hs, hm]

theorem hostStep_xfer {s u : State} {w : Htw} {dst : Option Nat} (h : s.hostStmt = some (.xfer w dst))
    (hu : exec (decodeHtw w) s = .next u) : hostStep s = .next (u.hostFinish w dst) := by
  simp only [hostStep, h, hu]

theorem hostStep_brb {s : State} {r : Nat} {n : Fin 8} {l : Nat} (h : s.hostStmt = some (.brb r n l)) :
    hostStep s = s.hostBranch r n l := by
  simp only [hostStep, h]

theorem hostStep_label {s : State} {l : Nat} (h : s.hostStmt = some (.label l)) :
    hostStep s = .next (s.hostGoto (s.host.pc + 1)) := by
  simp only [hostStep, h]

/-- No host operation moves the host agent. -/
theorem hostExec_host {i : Instr} {s t : State} (hi : i.format = .htw) (h : exec i s = .next t) : t.host = s.host := by
  obtain ⟨-, ⟨c, rfl⟩ | ⟨b, rfl⟩ | rfl | ⟨-, ⟨k, v, -, rfl⟩ | ⟨k, v, -, rfl⟩ | ⟨y, x, v, -, rfl⟩ | ⟨v, -, rfl⟩⟩⟩ :=
    hostExec_next hi h
  all_goals simp

/-- R40: a read that did not fault has a byte for the host to take over. -/
theorem exec_read_returns {s u : State} {w : Htw} (hw : w.rw = false) (h : exec (decodeHtw w) s = .next u)
    (hu : u.fault = none) : ∃ b, u.readData = some b := by
  have hs := exec_next_live h
  rw [decodeHtw, hw] at h
  obtain ⟨b, hb⟩ | ⟨c, hc⟩ := exec_read_cases hs w.addr
  · obtain rfl := Host.Outcome.next.inj ((hb _).symm.trans h)
    exact ⟨b, rfl⟩
  · obtain rfl := Host.Outcome.next.inj ((hc _).symm.trans h)
    have hcode := raise_code hs c (htw false w.addr w.data)
    rw [hu] at hcode
    cases hcode

/-- R40: `r <- MemRead(a, 1)`. -/
theorem hostVar_hostFinish {u : State} {w : Htw} {r : Nat} {b : Byte} (hw : w.rw = false) (hf : u.fault = none)
    (hb : u.readData = some b) (hv : u.host.vars.wf) : (u.hostFinish w (some r)).hostVar r = b := by
  simp [State.hostFinish, State.hostAssign, State.hostVar, hw, hf, hb, Memory.read_write_same hv]

/-- A transaction that names no variable moves the host's place alone. -/
theorem hostFinish_none (u : State) (w : Htw) : u.hostFinish w none = u.hostGoto (u.host.pc + 1) := by
  simp [State.hostFinish]

/-- Settles O32: a host operation completes in every state without a fault, and after it only the host agent moves. -/
theorem stepRunsTheHostsTransaction : Obligations.StepRunsTheHostsTransaction := by
  intro s w dst hs hn hm hst
  obtain ⟨u, hu⟩ := exec_live (s := s.takeTurn) hs (decodeHtw w)
  have hhost : u.host = s.host := hostExec_host (s := s.takeTurn) (decodeHtw_format w) hu
  obtain ⟨hscript, hpc⟩ := hostFinish_place u w dst
  refine ⟨decodeHtw_wellFormed w, u, hu, u.hostFinish w dst,
    (step_host hs hn hm).trans (hostStep_xfer hst hu), ?_, ?_, ?_, ?_, ?_⟩
  · rw [hostFinish_core]
  · rw [hscript, hhost]
  · rw [hpc, hhost]
  · rintro r rfl hw hf hv
    obtain ⟨b, hb⟩ := exec_read_returns hw hu hf
    rw [hb, hostVar_hostFinish hw hf hb (by rwa [hhost])]
  · rintro rfl
    rw [hostFinish_none, State.hostGoto_host, hhost]

/-- Settles O34: the two ways of the branch, and the label that stands nowhere. -/
theorem branchChangesOnlyTheHostsPlace : Obligations.BranchChangesOnlyTheHostsPlace := by
  intro s r n l hs hn hm hst taken
  have hstep : step s = s.takeTurn.hostBranch r n l := (step_host hs hn hm).trans (hostStep_brb hst)
  have hbit : (s.takeTurn.hostVar r).getLsbD n = taken := rfl
  rw [hstep, State.hostBranch, hbit, State.takeTurn_host]
  refine ⟨fun h => ?_, fun h pc hl => ?_, fun h hl => ?_⟩
  · simp [h, State.hostGoto]
  · simp [h, hl, State.hostGoto]
  · simp [h, hl]

/-- Settles O35: a label is a statement to pass. -/
theorem labelMovesTheHostToTheNextStatement : Obligations.LabelMovesTheHostToTheNextStatement := by
  intro s l hs hn hm hst
  exact (step_host hs hn hm).trans (hostStep_label hst)

end Sys2Proof.Machine
end

section
/-! The register decoder (41_register_decoder.md R41 to R48, 30_encoding.md R39): each field of the configuration registers and
of DEC as a number, the masks that keep exactly the bits the fields lie in, and that an image depends on the registers through
DEC alone. -/

namespace Sys2Proof.Machine

/-! ## The fields as numbers -/

/-- Concatenation as a number: the high part is shifted past the low part, and the two do not overlap. -/
theorem toNat_append_eq_mul_add {m n : Nat} (x : BitVec m) (y : BitVec n) :
    (x ++ y).toNat = x.toNat * 2 ^ n + y.toNat := by
  rw [BitVec.toNat_append, ← Nat.shiftLeft_add_eq_or_of_lt y.isLt, Nat.shiftLeft_eq]

/-- The field of `n` bits from bit `i` up as a number. -/
theorem toNat_extractLsb'_eq_div_mod {w : Nat} (b : BitVec w) (i n : Nat) :
    (b.extractLsb' i n).toNat = b.toNat / 2 ^ i % 2 ^ n := by
  rw [BitVec.extractLsb'_toNat, Nat.shiftRight_eq_div_pow]

/-- Bit 7 of a register is its top bit. -/
theorem toNat_topBit (b : Byte) : (b.extractLsb' 7 1).toNat = b.toNat / 128 := by
  have hlt := b.isLt
  rw [toNat_extractLsb'_eq_div_mod]
  omega

theorem pmsel_toNat (regs : Vector Byte 6) : (pmsel regs).toNat = regs[0].toNat / 2 % 4 :=
  toNat_extractLsb'_eq_div_mod regs[0] 1 2

theorem fieldN_toNat (regs : Vector Byte 6) : (fieldN regs).toNat = regs[1].toNat / 128 := toNat_topBit regs[1]

theorem fieldVH_toNat (regs : Vector Byte 6) : (fieldVH regs).toNat = regs[1].toNat / 32 % 4 :=
  toNat_extractLsb'_eq_div_mod regs[1] 5 2

theorem fieldExposure_toNat (regs : Vector Byte 6) :
    (fieldExposure regs).toNat = regs[2].toNat * 256 + regs[3].toNat :=
  toNat_append_eq_mul_add regs[2] regs[3]

theorem egain_toNat (regs : Vector Byte 6) : (egain regs).toNat = regs[4].toNat / 16 % 8 :=
  toNat_extractLsb'_eq_div_mod regs[4] 4 3

theorem fieldE3_toNat (regs : Vector Byte 6) : (fieldE3 regs).toNat = regs[4].toNat / 128 := toNat_topBit regs[4]

theorem fieldI_toNat (regs : Vector Byte 6) : (fieldI regs).toNat = regs[4].toNat / 8 % 2 :=
  toNat_extractLsb'_eq_div_mod regs[4] 3 1

/-- R42: the polarity table, by the number of its row. -/
theorem pmTable_rows (sel : BitVec 2) :
    (sel.toNat = 0 → pmTable sel = (0b00, 0b01)) ∧ (sel.toNat = 1 → pmTable sel = (0b01, 0b00)) ∧
      (sel.toNat = 2 ∨ sel.toNat = 3 → pmTable sel = (0b01, 0b10)) := by
  revert sel
  decide

/-- R45: the gain table, by the number of its row. -/
theorem gain4Lut_toNat (e : BitVec 3) : (gain4Lut e).toNat = [2, 3, 4, 5, 8, 12, 16, 20].getD e.toNat 0 := by
  revert e
  decide

/-- R47: the mode code weighs N by 8, VH by 2 and E3 by 1. -/
theorem modeCode_toNat (n : BitVec 1) (vh : BitVec 2) (e3 : BitVec 1) :
    (modeCode n vh e3).toNat = 8 * n.toNat + 2 * vh.toNat + e3.toNat := by
  rw [modeCode, toNat_append_eq_mul_add, toNat_append_eq_mul_add]
  omega

/-- Settles O5: field by field, with the row of each table named by the register bits that select it. -/
theorem decodedFieldsFollowTheRegisters : Obligations.DecodedFieldsFollowTheRegisters := by
  intro regs d sel
  obtain ⟨h0, h1, h23⟩ := pmTable_rows (pmsel regs)
  rw [pmsel_toNat] at h0 h1 h23
  refine ⟨fun h => Prod.mk.inj (h0 h), fun h => Prod.mk.inj (h1 h), fun h => Prod.mk.inj (h23 h), fieldN_toNat regs,
    fieldVH_toNat regs, fieldExposure_toNat regs, ?_, fieldE3_toNat regs, fieldI_toNat regs, modeCode_toNat _ _ _⟩
  rw [← egain_toNat]
  exact gain4Lut_toNat (egain regs)

/-! ## The bits that are not read -/

/-- A mask that keeps the whole of a field decides it: words that agree under the mask have the same field. -/
theorem extractLsb'_eq_of_and_eq {w i n : Nat} {b c mask : BitVec w} (hmask : mask.extractLsb' i n = BitVec.allOnes n)
    (h : b &&& mask = c &&& mask) : b.extractLsb' i n = c.extractLsb' i n := by
  have hfield := congrArg (BitVec.extractLsb' i n) h
  rwa [BitVec.extractLsb'_and, BitVec.extractLsb'_and, hmask, BitVec.and_allOnes, BitVec.and_allOnes] at hfield

/-- R48: DEC is a function of the seven fields. -/
theorem decodeRegs_eq_of_fields_eq {r q : Vector Byte 6} (hsel : pmsel r = pmsel q) (hn : fieldN r = fieldN q)
    (hvh : fieldVH r = fieldVH q) (hexp : fieldExposure r = fieldExposure q) (hgain : egain r = egain q)
    (he3 : fieldE3 r = fieldE3 q) (hi : fieldI r = fieldI q) : decodeRegs r = decodeRegs q := by
  simp only [decodeRegs, hsel, hn, hvh, hexp, hgain, he3, hi]

/-- R39, R48: the masks 0x06, 0xE0 and 0xF8 keep every field of REG0, REG1 and REG4. -/
theorem decodeRegs_eq_of_usedBits_eq {r q : Vector Byte 6} (h0 : r[0] &&& 0x06#8 = q[0] &&& 0x06#8)
    (h1 : r[1] &&& 0xE0#8 = q[1] &&& 0xE0#8) (h2 : r[2] = q[2]) (h3 : r[3] = q[3])
    (h4 : r[4] &&& 0xF8#8 = q[4] &&& 0xF8#8) : decodeRegs r = decodeRegs q :=
  decodeRegs_eq_of_fields_eq
    (hsel := extractLsb'_eq_of_and_eq (by decide) h0)
    (hn := extractLsb'_eq_of_and_eq (by decide) h1)
    (hvh := extractLsb'_eq_of_and_eq (by decide) h1)
    (hexp := congrArg₂ (· ++ ·) h2 h3)
    (hgain := extractLsb'_eq_of_and_eq (by decide) h4)
    (he3 := extractLsb'_eq_of_and_eq (by decide) h4)
    (hi := extractLsb'_eq_of_and_eq (by decide) h4)

/-- R96: the stages read the configuration registers through DEC alone. -/
theorem pipeline_eq_of_decodeRegs_eq {r q : Vector Byte 6} (h : decodeRegs r = decodeRegs q) (er : Int → Int)
    (frame : Fin 120 → Fin 128 → Byte) (matrix : Vector Byte 48) :
    pipeline er frame r matrix = pipeline er frame q matrix := by
  simp only [pipeline, pipelineQf, pipelineFf, pipelineSf, h]

/-- Settles O6: the masked registers decide DEC, and DEC decides the image. -/
theorem unusedRegisterBitsHaveNoEffect : Obligations.UnusedRegisterBitsHaveNoEffect := by
  intro r q h0 h1 h2 h3 h4
  have hdec := decodeRegs_eq_of_usedBits_eq h0 h1 h2 h3 h4
  exact ⟨hdec, pipeline_eq_of_decodeRegs_eq hdec⟩

end Sys2Proof.Machine
end

section
/-! The front end (42_front_end.md R49 to R54): the truncation of R50 by sign, the range of each quantity, and each of the four
formulas on natural numbers, from which the stage's whole frame follows. -/

namespace Sys2Proof.Machine

/-! ## The quantities of R50 -/

/-- R54: a sample's distance from the middle. -/
theorem sampleDiff_range (v : Byte) : -128 ≤ (v.toNat : Int) - 128 ∧ (v.toNat : Int) - 128 ≤ 127 := by
  have hlt := v.isLt
  omega

/-- R3: truncation toward zero is floor division where the dividend is not negative. -/
theorem tdiv_natCast (a b : Nat) : tdiv a b = ((a / b : Nat) : Int) := (Int.ofNat_tdiv a b).symm

/-- R3: truncation toward zero divides a negative dividend by its magnitude. -/
theorem tdiv_neg_natCast (a b : Nat) : tdiv (-a) b = -((a / b : Nat) : Int) := by
  rw [← tdiv_natCast]
  exact Int.neg_tdiv a b

/-- R50: the truncated eighth, by the sign of the sample's distance from the middle. -/
theorem sampleEighth_eq (v : Byte) :
    tdiv (((v.toNat : Int) - 128) * 5) 8 =
      if 128 ≤ v.toNat then (((v.toNat - 128) * 5 / 8 : Nat) : Int) else -(((128 - v.toNat) * 5 / 8 : Nat) : Int) := by
  split_ifs with h
  · have hdiff : ((v.toNat : Int) - 128) * 5 = (((v.toNat - 128) * 5 : Nat) : Int) := by omega
    rw [hdiff]
    exact tdiv_natCast _ 8
  · have hdiff : ((v.toNat : Int) - 128) * 5 = -(((128 - v.toNat) * 5 : Nat) : Int) := by omega
    rw [hdiff]
    exact tdiv_neg_natCast _ 8

theorem sampleEighth_range (v : Byte) :
    -80 ≤ tdiv (((v.toNat : Int) - 128) * 5) 8 ∧ tdiv (((v.toNat : Int) - 128) * 5) 8 ≤ 79 := by
  have hlt := v.isLt
  rw [sampleEighth_eq]
  split_ifs <;> omega

/-- R54: the clamp of R50 never acts. -/
theorem voltageAdapt_eq_unclamped (v : Byte) : voltageAdapt v = 128 + tdiv (((v.toNat : Int) - 128) * 5) 8 := by
  obtain ⟨hlo, hhi⟩ := sampleEighth_range v
  exact clamp_of_mem (by omega) (by omega)

theorem voltageAdapt_range (v : Byte) : 48 ≤ voltageAdapt v ∧ voltageAdapt v ≤ 207 := by
  obtain ⟨hlo, hhi⟩ := sampleEighth_range v
  rw [voltageAdapt_eq_unclamped]
  omega

/-! ## The quantities of R51 and R52 -/

/-- R54: the product of R51 is at most 207 * 0xFFFF. -/
theorem exposureProduct_range (v : Byte) (e : BitVec 16) :
    0 ≤ voltageAdapt v * (e.toNat : Int) ∧ voltageAdapt v * (e.toNat : Int) ≤ 13565745 := by
  obtain ⟨hlo, hhi⟩ := voltageAdapt_range v
  have he : (e.toNat : Int) ≤ 65535 := by
    have hlt := e.isLt
    omega
  constructor
  · exact mul_nonneg (by omega) (Int.natCast_nonneg _)
  · calc voltageAdapt v * (e.toNat : Int)
        ≤ 207 * 65535 := mul_le_mul hhi he (Int.natCast_nonneg _) (by decide)
      _ = 13565745 := by decide

theorem exposureScale_range (va : Int) (e : BitVec 16) : 0 ≤ exposureScale va e ∧ exposureScale va e ≤ 255 :=
  clamp_range 0 _ 255 (by decide)

/-- R52: an inverted byte is a byte. -/
theorem invertSample_range (i : BitVec 1) {ve : Int} (h : 0 ≤ ve ∧ ve ≤ 255) :
    0 ≤ invertSample i ve ∧ invertSample i ve ≤ 255 := by
  unfold invertSample
  split_ifs <;> omega

/-- Settles O8: the ranges follow one another through the four formulas. -/
theorem frontendValuesStayInTheirRanges : Obligations.FrontendValuesStayInTheirRanges := by
  intro v e i diff va ve
  have hdiff : -128 ≤ diff ∧ diff ≤ 127 := sampleDiff_range v
  have hve : 0 ≤ ve ∧ ve ≤ 255 := exposureScale_range va e
  exact ⟨hdiff, by omega, sampleEighth_range v, voltageAdapt_range v, exposureProduct_range v e, hve,
    invertSample_range i hve, frontEndPixel_range e i v⟩

/-! ## The four formulas on natural numbers -/

/-- R50, by the sign of the sample's distance from the middle. -/
theorem voltageAdapt_eq_natCast (v : Byte) :
    voltageAdapt v =
      ((if 128 ≤ v.toNat then 128 + (v.toNat - 128) * 5 / 8 else 128 - (128 - v.toNat) * 5 / 8 : Nat) : Int) := by
  rw [voltageAdapt_eq_unclamped, sampleEighth_eq]
  split_ifs <;> omega

/-- R51: of the two bounds of the clamp only the upper one can act on a product of natural numbers. -/
theorem exposureScale_natCast (va : Nat) (e : BitVec 16) :
    exposureScale va e = ((min (va * e.toNat / 256) 255 : Nat) : Int) := by
  have hdiv : tdiv ((va : Int) * (e.toNat : Int)) 256 = ((va * e.toNat / 256 : Nat) : Int) := by
    rw [← Int.natCast_mul]
    exact tdiv_natCast _ 256
  rw [exposureScale, hdiv, clamp]
  omega

/-- R52: the complement of a byte is taken without borrow. -/
theorem invertSample_natCast (i : BitVec 1) {ve : Nat} (h : ve ≤ 255) :
    invertSample i ve = ((if i = 1 then 255 - ve else ve : Nat) : Int) := by
  unfold invertSample
  split_ifs <;> omega

/-- R49 to R53: one sample through the four formulas. -/
theorem frontEndPixel_eq_natCast (e : BitVec 16) (i : BitVec 1) (v : Byte) :
    let va := if 128 ≤ v.toNat then 128 + (v.toNat - 128) * 5 / 8 else 128 - (128 - v.toNat) * 5 / 8
    let ve := min (va * e.toNat / 256) 255
    frontEndPixel e i v = ((if i = 1 then 255 - ve else ve : Nat) : Int) - 128 := by
  intro va ve
  have hve : exposureScale (voltageAdapt v) e = (ve : Int) := by
    rw [voltageAdapt_eq_natCast, exposureScale_natCast]
  rw [frontEndPixel, domainShift, hve, invertSample_natCast i (Nat.min_le_right _ 255)]

/-- Settles O7: FRONTEND is one update of SF and PHASE, and each sample of the new SF goes through the four formulas. -/
theorem frontendRescalesEverySample : Obligations.FrontendRescalesEverySample := by
  intro s hs
  refine ⟨_, whenLive_live hs _, fun y x => ?_, rfl, rfl, ⟨rfl, rfl⟩, rfl, rfl, rfl, rfl, fun _ => rfl, hs, rfl,
    ⟨rfl, rfl, rfl, rfl, rfl⟩⟩
  exact (at_planeOf _ y x).trans (frontEndPixel_eq_natCast s.dec.exposure s.dec.inv (s.frame y x))

end Sys2Proof.Machine
end

section
/-! The filter engine (43_filter_engine.md R55 to R66): the neighbours of R56 without their clamp, what each operation does to
the state as a whole, where the choice of EDGE_ROUND is seen, and the range of each sum. -/

namespace Sys2Proof.Machine

/-! ## The neighbours of R56 -/

theorem coord_succ_val (n i : Nat) : (coord n (i + 1)).val = min (i + 1) n := by
  have hval := coord_val n (i + 1)
  unfold clamp at hval
  omega

theorem coord_pred_val {n i : Nat} (h : i ≤ n) : (coord n (i + -1)).val = i - 1 := by
  have hval := coord_val n (i + -1)
  unfold clamp at hval
  omega

theorem cy_one (y : Fin 120) : cy y 1 = rowBelow y := by
  refine Fin.ext ((coord_succ_val 119 y.val).trans ?_)
  unfold rowBelow
  split_ifs with h
  · exact Nat.min_eq_left (by omega)
  · exact (Nat.min_eq_right (by omega)).trans (by omega)

theorem cy_neg_one (y : Fin 120) : cy y (-1) = rowAbove y := Fin.ext (coord_pred_val (by omega))

theorem cx_one (x : Fin 128) : cx x 1 = colRight x := by
  refine Fin.ext ((coord_succ_val 127 x.val).trans ?_)
  unfold colRight
  split_ifs with h
  · exact Nat.min_eq_left (by omega)
  · exact (Nat.min_eq_right (by omega)).trans (by omega)

theorem cx_neg_one (x : Fin 128) : cx x (-1) = colLeft x := Fin.ext (coord_pred_val (by omega))

/-! ## The samples of each operation -/

/-- R4: the two bounds of a clamp may be taken in either order. -/
theorem clamp_eq_max_min {lo hi : Int} (h : lo ≤ hi) (v : Int) : clamp lo v hi = max lo (min v hi) := by
  unfold clamp
  omega

theorem hedgeSum_eq (a : Plane Int 120) (g : BitVec 5) (y : Fin 120) (x : Fin 128) :
    hedgeSum a g y x =
      4 * a.at y x + (2 * a.at y x - a.at y (colLeft x) - a.at y (colRight x)) * (g.toNat : Int) := by
  rw [hedgeSum, cx_neg_one, cx_one]

theorem laplaceSum_eq (a : Plane Int 120) (g : BitVec 5) (y : Fin 120) (x : Fin 128) :
    laplaceSum a g y x =
      4 * a.at y x +
        (4 * a.at y x - a.at (rowAbove y) x - a.at (rowBelow y) x - a.at y (colRight x) - a.at y (colLeft x)) *
          (g.toNat : Int) := by
  rw [laplaceSum, cy_neg_one, cy_one, cx_neg_one, cx_one]

theorem at_vert1d (a : Plane Int 120) (p m : BitVec 2) (y : Fin 120) (x : Fin 128) :
    (vert1d a p m).at y x = max (-128) (min (vertSum a p m y x) 127) := by
  rw [vert1d, at_planeOf, vcomb, clamp_eq_max_min (by decide), cy_one]
  rfl

theorem at_hedge (er : Int → Int) (a : Plane Int 120) (g : BitVec 5) (y : Fin 120) (x : Fin 128) :
    (hedge er a g).at y x = max 0 (min (er (hedgeSum a g y x)) 255) := by
  rw [hedge, at_planeOf, clamp_eq_max_min (by decide)]

theorem at_laplace2d (er : Int → Int) (a : Plane Int 120) (g : BitVec 5) (y : Fin 120) (x : Fin 128) :
    (laplace2d er a g).at y x = max (-128) (min (er (laplaceSum a g y x)) 127) := by
  rw [laplace2d, at_planeOf, clamp_eq_max_min (by decide)]

/-! ## The operations -/

/-- R64: the twelve pass-through rows of the opcode table. -/
abbrev passOperations : List Instr :=
  [.fPass3, .fPass4, .fPass5, .fPass6, .fPass7, .fPass8, .fPass9, .fPassA, .fPassB, .fPassC, .fPassD, .fPassF]

/-- The mode codes with an operation of their own (30_encoding.md R37). -/
abbrev supportedModes : List (BitVec 4) := [0x0, 0x1, 0x2, 0xE]

theorem exec_passOperation {i : Instr} (hi : i ∈ passOperations) (s : State) :
    exec i s = whenLive s s.filterPass.filterDone := by
  fin_cases hi <;> rfl

/-- R55: the operation of a mode code does what the FILTER step does where DEC.MODE is that code. -/
theorem exec_decodeMode (m : BitVec 4) (s : State) : exec (decodeMode m) s = whenLive s (s.applyFilter m).filterDone := by
  obtain ⟨k⟩ := m
  fin_cases k <;> rfl

theorem exec_filter (s : State) : exec .filter s = exec (decodeMode s.dec.mode) s :=
  (exec_decodeMode s.dec.mode s).symm

theorem applyFilter_unsupported {m : BitVec 4} (hm : m ∉ supportedModes) (s : State) : s.applyFilter m = s.filterPass := by
  simp only [List.mem_cons, List.not_mem_nil, or_false, not_or] at hm
  obtain ⟨h0, h1, h2, hE⟩ := hm
  rw [State.applyFilter, if_neg h0, if_neg h2, if_neg hE, if_neg h1]

/-- An operation that writes FF alone: its samples, and everything it leaves unchanged. -/
theorem completes_of_writes_ff {s : State} (hs : s.Live) {ff : Plane Int 120} {f : Fin 120 → Fin 128 → Int}
    (hff : ∀ y x, ff.at y x = f y x) :
    Completes (whenLive s { s with ff := ff, phase := .quantize }) fun t =>
      (∀ y x, t.ff.at y x = f y x) ∧
      t.status = s.status ∧ SameConfig s t ∧
      t.dec = s.dec ∧ t.sf = s.sf ∧ t.hf = s.hf ∧ t.qf = s.qf ∧
      SameMemory s t ∧ t.fault = none ∧ t.readData = s.readData ∧ SameOutside s t :=
  ⟨_, whenLive_live hs _, hff, rfl, ⟨rfl, rfl⟩, rfl, rfl, rfl, rfl, fun _ => rfl, hs, rfl, ⟨rfl, rfl, rfl, rfl, rfl⟩⟩

/-- Settles O9: F_VERT1D writes FF alone, by the vertical combination of SF. -/
theorem vert1dCombinesEachPixelWithItsSuccessor : Obligations.Vert1dCombinesEachPixelWithItsSuccessor := fun s hs =>
  completes_of_writes_ff hs (at_vert1d s.sf s.dec.p s.dec.m)

/-- Settles O10: the second pass is the vertical combination of the HF that the first pass leaves. -/
theorem hedgeVert1dFiltersInTwoPasses : Obligations.HedgeVert1dFiltersInTwoPasses := by
  intro s hs
  refine ⟨_, whenLive_live hs _, fun y x => ?_, at_vert1d _ s.dec.p s.dec.m, rfl, ⟨rfl, rfl⟩, rfl, rfl, rfl,
    fun _ => rfl, hs, rfl, ⟨rfl, rfl, rfl, rfl, rfl⟩⟩
  rw [State.filterDone_hf, State.filterHedge_hf, at_hedge, hedgeSum_eq]

/-- Settles O11: F_LAPLACE2D writes FF alone, by the sum of R62. -/
theorem laplace2dEnhancesByFourNeighbours : Obligations.Laplace2dEnhancesByFourNeighbours := by
  intro s hs
  refine completes_of_writes_ff hs fun y x => ?_
  rw [State.filterLaplace_ff, at_laplace2d, laplaceSum_eq]

/-! ## START of each kind of mode -/

/-- R83: a write of CTRL with bit 0 set while idle. -/
theorem exec_ctrlWr_start {s : State} (hs : s.Idle) {v : Byte} (hv : v.getLsbD 0 = true) :
    exec (.ctrlWr v) s = .next s.startRun := by
  obtain ⟨hlive, hbusy⟩ := hs
  calc exec (.ctrlWr v) s
      = whenLive s (if v.getLsbD 0 then unlessBusy s .startBusy (encodeHtw (.ctrlWr v)) s.startRun else s) := rfl
    _ = .next s.startRun := by rw [if_pos hv, unlessBusy_idle hbusy, whenLive_live hlive]

theorem modeSupported_iff (m : BitVec 4) : modeSupported m = true ↔ m ∈ supportedModes := by
  revert m
  decide

/-- R83: STATUS after START tells the mode code and whether it has an operation of its own. -/
theorem start_status {s : State} (hs : s.Idle) {v : Byte} (hv : v.getLsbD 0 = true) :
    Completes (exec (.ctrlWr v) s) fun t =>
      t.status.warn = !modeSupported (decodeRegs s.regs).mode ∧ t.status.mode = (decodeRegs s.regs).mode :=
  ⟨_, exec_ctrlWr_start hs hv, rfl, rfl⟩

/-- Settles O12: F_ZERO writes FF alone, with zeros, and mode 0x1 is supported. -/
theorem zeroModeForcesEverySampleToZero : Obligations.ZeroModeForcesEverySampleToZero := by
  refine ⟨fun s hs => completes_of_writes_ff hs (at_planeOf fun _ _ => 0), fun s v hs hv hm => ?_⟩
  obtain ⟨t, ht, hwarn, hmode⟩ := start_status hs hv
  rw [hm] at hwarn hmode
  exact ⟨t, ht, hwarn, hmode⟩

/-- Settles O13: each pass-through operation writes FF alone, with SF, and START warns of every other mode than the four. -/
theorem passThroughCopiesAndStartWarns : Obligations.PassThroughCopiesAndStartWarns := by
  refine ⟨fun i hi s hs => ?_, fun s v hs hv hm => ?_⟩
  · rw [exec_passOperation hi]
    exact completes_of_writes_ff hs (at_planeOf s.sf.at)
  · obtain ⟨t, ht, hwarn, hmode⟩ := start_status hs hv
    have hunsupported : modeSupported (decodeRegs s.regs).mode = false :=
      Bool.eq_false_iff.2 (mt (modeSupported_iff _).1 hm)
    rw [hunsupported] at hwarn
    exact ⟨t, ht, hwarn, hmode⟩

/-! ## The FILTER step -/

/-- Settles O14: the FILTER step is the operation of DEC.MODE, and that writes FF, PHASE and, in mode 0x2, HF. -/
theorem filterStepPerformsTheOperationOfTheMode : Obligations.FilterStepPerformsTheOperationOfTheMode := by
  intro s hs
  have hmode : ∀ {m : BitVec 4}, s.dec.mode = m → exec .filter s = exec (decodeMode m) s := fun h => h ▸ exec_filter s
  refine ⟨hmode, hmode, hmode, hmode, fun hm i hi => ?_, ?_⟩
  · rw [exec_filter, exec_decodeMode, applyFilter_unsupported hm, exec_passOperation hi]
  · have hhf : s.dec.mode ≠ 0x2 → (s.applyFilter s.dec.mode).hf = s.hf := fun h => by
      rw [State.applyFilter_hf, if_neg h]
    exact ⟨_, whenLive_live hs _, by simpa [SameConfig, SameMemory, SameOutside, hs] using hhf⟩

/-- Settles O15: the operation of a mode code is the FILTER step in that mode. -/
theorem filterOperationsEndTheFilterStep : Obligations.FilterOperationsEndTheFilterStep := by
  intro m s hs
  rw [exec_decodeMode]
  exact ⟨_, whenLive_live hs _, rfl⟩

/-! ## EDGE_ROUND -/

/-- R3: truncation toward zero, by the sign of the dividend. -/
theorem tdiv_four_eq (T : Int) : tdiv T 4 = if 0 ≤ T then T / 4 else -(-T / 4) := by
  unfold tdiv
  split_ifs with h
  · exact Int.tdiv_eq_ediv_of_nonneg h
  · rw [← Int.tdiv_eq_ediv_of_nonneg (by omega : 0 ≤ -T), Int.neg_tdiv, neg_neg]

/-- R61: conversions that are exact on multiples of 4 agree there. -/
theorem edgeRound_eq_of_dvd {er er' : Int → Int} (her : ∀ k, er (4 * k) = k) (her' : ∀ k, er' (4 * k) = k) {T : Int}
    (hT : 4 ∣ T) : er T = er' T := by
  obtain ⟨k, rfl⟩ := hT
  rw [her, her']

/-- R59, R62: a sum T in quarter units is a multiple of 4 where GAIN4 is one. -/
theorem four_dvd_gainSum {g : BitVec 5} (hg : g.toNat % 4 = 0) (px edge : Int) : 4 ∣ 4 * px + edge * (g.toNat : Int) :=
  dvd_add (dvd_mul_right 4 px) (Dvd.dvd.mul_left (by omega) edge)

theorem hedge_eq_of_exact {er er' : Int → Int} (her : ∀ k, er (4 * k) = k) (her' : ∀ k, er' (4 * k) = k)
    {g : BitVec 5} (hg : g.toNat % 4 = 0) (a : Plane Int 120) : hedge er a g = hedge er' a g :=
  plane_ext fun y x => by
    have hT : 4 ∣ hedgeSum a g y x := four_dvd_gainSum hg _ _
    rw [at_hedge, at_hedge, edgeRound_eq_of_dvd her her' hT]

theorem laplace2d_eq_of_exact {er er' : Int → Int} (her : ∀ k, er (4 * k) = k) (her' : ∀ k, er' (4 * k) = k)
    {g : BitVec 5} (hg : g.toNat % 4 = 0) (a : Plane Int 120) : laplace2d er a g = laplace2d er' a g :=
  plane_ext fun y x => by
    have hT : 4 ∣ laplaceSum a g y x := four_dvd_gainSum hg _ _
    rw [at_laplace2d, at_laplace2d, edgeRound_eq_of_dvd her her' hT]

/-- Settles O16: EDGE_ROUND is seen in modes 0x2 and 0xE alone, and there only of sums T that are multiples of 4. -/
theorem edgeRoundMattersOnlyForFractionalGains : Obligations.EdgeRoundMattersOnlyForFractionalGains := by
  refine ⟨fun s hs T => ?_, fun s k => edgeRound_exact s.params.edgeRound k, fun er er' d sf her her' hg => ?_⟩
  · rw [State.edgeRound, hs]
    exact tdiv_four_eq T
  · rw [filterPlane, filterPlane, hedge_eq_of_exact her her' hg, laplace2d_eq_of_exact her her' hg]

/-! ## The ranges of the sums -/

/-- R57: the two terms of one pixel cancel where both masks have its bit, so together they are at most one pixel. -/
theorem maskedDiff_range {b v : Int} (h : -b ≤ v ∧ v ≤ b) (p m : Bool) :
    -b ≤ (if p then v else 0) - (if m then v else 0) ∧ (if p then v else 0) - (if m then v else 0) ≤ b := by
  split_ifs <;> omega

/-- R57: the vertical combination takes each of its two pixels at most once. -/
theorem vertSum_range {b : Int} {a : Plane Int 120} (h : InRange (-b) b a) (p m : BitVec 2) (y : Fin 120) (x : Fin 128) :
    -(2 * b) ≤ vertSum a p m y x ∧ vertSum a p m y x ≤ 2 * b := by
  obtain ⟨hlo, hhi⟩ := maskedDiff_range (h y x) (p.getLsbD 0) (m.getLsbD 0)
  obtain ⟨hlo', hhi'⟩ := maskedDiff_range (h (rowBelow y) x) (p.getLsbD 1) (m.getLsbD 1)
  unfold vertSum
  constructor <;> linarith

theorem inRange_mono {lo hi lo' hi' : Int} {a : Plane Int 120} (h : InRange lo hi a) (hl : lo' ≤ lo) (hh : hi ≤ hi') :
    InRange lo' hi' a := fun y x => ⟨hl.trans (h y x).1, (h y x).2.trans hh⟩

/-- R66: an edge of magnitude at most `b`, weighed by GAIN4 and added to four times a sample of SF. -/
theorem gainSum_range {px edge b : Int} {g : BitVec 5} (hpx : -128 ≤ px ∧ px ≤ 127) (hedge : -b ≤ edge ∧ edge ≤ b)
    (hg : g.toNat ≤ 20) :
    -512 - b * 20 ≤ 4 * px + edge * (g.toNat : Int) ∧ 4 * px + edge * (g.toNat : Int) ≤ 508 + b * 20 := by
  have habs : |edge| ≤ b := abs_le.2 hedge
  have hprod : |edge * (g.toNat : Int)| ≤ b * 20 := by
    rw [abs_mul, Nat.abs_cast]
    exact mul_le_mul habs (by omega) (Int.natCast_nonneg _) ((abs_nonneg edge).trans habs)
  obtain ⟨hlo, hhi⟩ := abs_le.1 hprod
  omega

/-- Settles O17: the edges are bounded sample by sample, and T by the edge and the gain. -/
theorem filterSumsStayInTheirRanges : Obligations.FilterSumsStayInTheirRanges := by
  intro a h p m g y x ha hh hg
  have hn := ha (rowAbove y) x
  have hs := ha (rowBelow y) x
  have hw := ha y (colLeft x)
  have he := ha y (colRight x)
  have hpx := ha y x
  have hsf : InRange (-128) 128 a := inRange_mono ha (by decide) (by decide)
  have hhf : InRange (-255) 255 h := inRange_mono hh (by decide) (by decide)
  have hhedge : -510 ≤ 2 * a.at y x - a.at y (colLeft x) - a.at y (colRight x) ∧
      2 * a.at y x - a.at y (colLeft x) - a.at y (colRight x) ≤ 510 := by omega
  have hlaplace : -1020 ≤ 4 * a.at y x - a.at (rowAbove y) x - a.at (rowBelow y) x - a.at y (colRight x) - a.at y (colLeft x) ∧
      4 * a.at y x - a.at (rowAbove y) x - a.at (rowBelow y) x - a.at y (colRight x) - a.at y (colLeft x) ≤ 1020 := by omega
  rw [hedgeSum_eq, laplaceSum_eq]
  exact ⟨vertSum_range hsf p m y x, vertSum_range hhf p m y x, hhedge, hlaplace, gainSum_range hpx hhedge hg,
    gainSum_range hpx hlaplace hg⟩

end Sys2Proof.Machine
end

section
/-! The quantizer (44_quantizer.md R67 to R71): the crop, the cell and the cascade of one visible pixel, and its obligation. -/

namespace Sys2Proof.Machine

/-- R68: a visible row is the raw row four further down. -/
theorem cropRow_eq_ofNat (y : Fin 112) : cropRow y = Fin.ofNat 120 (y.val + 4) :=
  Fin.ext (Nat.mod_eq_of_lt (by omega)).symm

/-- R69: a cell's three thresholds stand side by side, and the cells in rows of four. -/
theorem matrixLayout_cellIndex (y x : Nat) (k : Fin 3) :
    Config.matrixLayout (cellIndex y) (cellIndex x) k = Fin.ofNat 48 (3 * (4 * (y % 4) + x % 4) + k.val) :=
  Fin.ext (Nat.mod_eq_of_lt (by omega)).symm

theorem threshold_matrixLayout (s : State) (y : Fin 112) (x : Fin 128) (k : Fin 3) :
    threshold Config.matrixLayout s.matrix y x k = s.thr (Fin.ofNat 48 (3 * (4 * (y.val % 4) + x.val % 4) + k.val)) :=
  congrArg s.thr (matrixLayout_cellIndex y x k)

/-- R70: the byte of the level that the cascade selects. -/
theorem levelByte_level (u : Int) (t0 t1 t2 : Byte) :
    levelByte (level u t0 t1 t2) =
      if u < (t0.toNat : Int) then 0x00 else if u < (t1.toNat : Int) then 0x40
      else if u < (t2.toNat : Int) then 0x80 else 0xC0 := by
  unfold level
  split_ifs <;> rfl

/-- Settles O18: crop, cell and cascade of each pixel; the step writes QF and PHASE alone. -/
theorem quantizeTakesTheStrictCascade : Obligations.QuantizeTakesTheStrictCascade := by
  intro s hs
  refine ⟨_, whenLive_live hs _, fun y x => ?_, rfl, rfl, ⟨rfl, rfl⟩, rfl, rfl, rfl, rfl, fun _ => rfl, hs, rfl,
    ⟨rfl, rfl, rfl, rfl, rfl⟩⟩
  rw [quantize, at_planeOf, quantizePixel, levelByte_level, unsignedSample, cropRow_eq_ofNat, threshold_matrixLayout,
    threshold_matrixLayout, threshold_matrixLayout]
  rfl

end Sys2Proof.Machine
end

section
/-! The packer (45_tile_packer.md R72 to R78): the place of each (pixel, plane) in OUT and its inverse, what the loop leaves
there, and the obligations about PACK. -/

namespace Sys2Proof.Machine

/-! ## Pixels and places -/

/-- R78: (pixel, plane) to (byte, bit) and its inverse. -/
theorem place_iff (y : Fin 112) (x : Fin 128) (p : Fin 2) (i k : Nat) :
    (tileBase y x + p.val = i ∧ pixelBit x = k) ↔
      i < 3584 ∧ k < 8 ∧ y.val = byteRow i ∧ x.val = byteCol i (7 - k) ∧ p.val = i % 2 := by
  unfold tileBase pixelBit byteRow byteCol
  omega

theorem byteRow_lt {i : Nat} (hi : i < 3584) : byteRow i < 112 := by
  unfold byteRow
  omega

theorem byteCol_lt {i c : Nat} (hc : c < 8) : byteCol i c < 128 := by
  unfold byteCol
  omega

/-- R78: each bit of the image part of OUT is the place of exactly one (pixel, plane). -/
theorem existsUnique_place {i k : Nat} (hi : i < 3584) (hk : k < 8) :
    ∃ (y : Fin 112) (x : Fin 128) (p : Fin 2), (tileBase y x + p.val = i ∧ pixelBit x = k) ∧
      ∀ (y' : Fin 112) (x' : Fin 128) (p' : Fin 2), tileBase y' x' + p'.val = i → pixelBit x' = k →
        y' = y ∧ x' = x ∧ p' = p := by
  refine ⟨⟨byteRow i, byteRow_lt hi⟩, ⟨byteCol i (7 - k), byteCol_lt (by omega)⟩, ⟨i % 2, Nat.mod_lt i (by decide)⟩,
    (place_iff _ _ _ i k).2 ⟨hi, hk, rfl, rfl, rfl⟩, fun y' x' p' hb hp => ?_⟩
  obtain ⟨-, -, hy, hx, hplane⟩ := (place_iff y' x' p' i k).1 ⟨hb, hp⟩
  exact ⟨Fin.ext hy, Fin.ext hx, Fin.ext hplane⟩

/-! ## What stands at a place -/

/-- R77: the tail. -/
theorem packPlane_tail (qf : Plane Level 112) {i : Fin 4096} (hi : 3584 ≤ i.val) : (packPlane qf)[i] = 0 := by
  rw [packPlane_eq_packByte]
  exact if_neg (Nat.not_lt.2 hi)

/-- R78: the closed form of the image part, by the bit from the left. -/
theorem packPlane_getLsbD (qf : Plane Level 112) {i : Fin 4096} (hi : i.val < 3584) {c : Nat} (hc : c < 8) :
    (packPlane qf)[i].getLsbD (7 - c) = planeBit qf (byteRow i) (byteCol i c) (i.val % 2) := by
  have hcol : 7 - (7 - c) = c := by omega
  rw [packPlane_eq_packByte, Bool.eq_iff_iff, packByte_bit qf i (by omega), and_iff_right hi, hcol]

/-- R76: a pixel's place holds the plane bit of its color index. -/
theorem packPlane_place (qf : Plane Level 112) (y : Fin 112) (x : Fin 128) (p : Fin 2) :
    (packPlane qf)[Fin.ofNat 4096 (tileBase y x + p.val)].getLsbD (pixelBit x) =
      (colorIndex (qf.at y x)).testBit p.val := by
  obtain ⟨hi, -, hy, hx, hp⟩ := (place_iff y x p _ _).1 ⟨rfl, rfl⟩
  have hval : (Fin.ofNat 4096 (tileBase y x + p.val)).val = tileBase y x + p.val := Nat.mod_eq_of_lt (by omega)
  have hc : x.val % 8 < 8 := Nat.mod_lt _ (by decide)
  have hcol : 7 - pixelBit x = x.val % 8 := by unfold pixelBit; omega
  rw [hcol] at hx
  rw [pixelBit, packPlane_getLsbD qf (by rwa [hval]) hc, hval, ← hp, planeBit, ← hy, ← hx, Fin.ofNat_val_eq_self,
    Fin.ofNat_val_eq_self]

/-- R73: a level is read back from the two bits of its color index. -/
theorem levelByte_of_colorIndex (l : Level) :
    (levelByte l).toNat = (3 - (2 * ((colorIndex l).testBit 1).toNat + ((colorIndex l).testBit 0).toNat)) * 64 := by
  cases l <;> decide

/-- R78: the inverse map, from the two bits of a pixel to its level. -/
theorem levelByte_of_packPlane (qf : Plane Level 112) (y : Fin 112) (x : Fin 128) :
    (levelByte (qf.at y x)).toNat =
      (3 - (2 * ((packPlane qf)[Fin.ofNat 4096 (tileBase y x + 1)].getLsbD (pixelBit x)).toNat +
        ((packPlane qf)[Fin.ofNat 4096 (tileBase y x)].getLsbD (pixelBit x)).toNat)) * 64 := by
  have hlow : (packPlane qf)[Fin.ofNat 4096 (tileBase y x)].getLsbD (pixelBit x) = (colorIndex (qf.at y x)).testBit 0 :=
    packPlane_place qf y x 0
  have hhigh : (packPlane qf)[Fin.ofNat 4096 (tileBase y x + 1)].getLsbD (pixelBit x) =
      (colorIndex (qf.at y x)).testBit 1 := packPlane_place qf y x 1
  rw [hlow, hhigh, ← levelByte_of_colorIndex]

/-! ## The obligations -/

/-- Settles O19: PACK is one update of OUT, PHASE and STATUS, and the closed form it writes is what the loop computes. -/
theorem packWritesTheLoopsBytesAndCompletes : Obligations.PackWritesTheLoopsBytesAndCompletes := by
  intro s hs
  refine ⟨_, whenLive_live hs _, fun i => ?_, fun a ha => ?_, rfl, rfl, rfl, rfl, rfl, ⟨rfl, rfl⟩,
    ⟨rfl, rfl, rfl, rfl, rfl⟩, hs, rfl, ⟨rfl, rfl, rfl, rfl, rfl⟩⟩
  · rw [packPlane_eq_packByte]
    exact out_setOut s _ i
  · exact Memory.read_setRange_out _ 0x8000 4096 _ ha

/-- Settles O20: the loop leaves the closed form, each place holds its plane bit, and the places are the bits of the image
part. -/
theorem packedBytesHaveTheClosedFormAndItsInverse : Obligations.PackedBytesHaveTheClosedFormAndItsInverse := fun qf =>
  ⟨fun _ => packPlane_tail qf, fun _ hi _ => packPlane_getLsbD qf hi, levelByte_of_packPlane qf,
    fun _ hi _ => existsUnique_place hi⟩

end Sys2Proof.Machine
end

section
/-! The invocation in progress (20_memory.md R33, 46_host_operations.md R93 to R96): what an invocation on course is in each
phase, that the host and the pipeline agent keep it on course, and the invariant that follows. -/

namespace Sys2Proof.Machine

/-! ## The invocation invariant, phase by phase -/

/-- The latch holds the decoded registers, and STATUS.MODE the mode code (46_host_operations.md R83). -/
def State.Latched (s : State) : Prop := s.dec = decodeRegs s.regs ∧ s.status.mode = s.dec.mode

theorem invocationInv_frontend {s : State} (hp : s.phase = .frontend) : s.InvocationInv ↔ s.Latched := by
  simp [State.InvocationInv, State.Latched, hp]

theorem invocationInv_filter {s : State} (hp : s.phase = .filter) :
    s.InvocationInv ↔ s.Latched ∧ s.sf = pipelineSf s.frame s.regs := by
  simp [State.InvocationInv, State.Latched, hp]

theorem invocationInv_quantize {s : State} (hp : s.phase = .quantize) :
    s.InvocationInv ↔ s.Latched ∧ s.ff = pipelineFf s.edgeRound s.frame s.regs := by
  simp [State.InvocationInv, State.Latched, hp]

theorem invocationInv_pack {s : State} (hp : s.phase = .pack) :
    s.InvocationInv ↔ s.Latched ∧ s.qf = pipelineQf s.edgeRound s.frame s.regs s.matrix := by
  simp [State.InvocationInv, State.Latched, hp]

theorem invocationInv_startRun (s : State) : s.startRun.InvocationInv :=
  (invocationInv_frontend rfl).2 ⟨rfl, rfl⟩

/-! ## The host keeps the invocation on course -/

/-- While BUSY a host operation writes nothing the invariant speaks of, and an idle core is left idle or started. -/
theorem hostExec_keeps_invocationInv {i : Instr} {s t : State} (hf : i.format = .htw) (hc : s.ControlInv)
    (hi : s.InvocationInv) (h : exec i s = .next t) : t.InvocationInv := by
  cases hb : s.status.busy
  case true =>
    rw [hostExec_busy hf hb h]
    exact hi
  case false =>
    obtain ⟨hbusy, -⟩ := hc
    have hidle : s.phase = .idle := by simpa [hb] using hbusy
    obtain ⟨-, hp⟩ | ⟨v, -, -, -, rfl⟩ := hostExec_control hf h
    · exact invocationInv_of_idle (hp.trans hidle)
    · exact invocationInv_startRun s

theorem invocationInv_hostFinish {s : State} (hi : s.InvocationInv) (w : Htw) (dst : Option Nat) :
    (s.hostFinish w dst).InvocationInv := by
  rw [hostFinish_core]
  exact hi

theorem hostStep_keeps_invocationInv {s t : State} (hc : s.ControlInv) (hi : s.InvocationInv) (h : hostStep s = .next t) :
    t.InvocationInv := by
  obtain ⟨pc, rfl⟩ | ⟨w, dst, u, -, hu, rfl⟩ := hostStep_next h
  · exact hi
  · exact invocationInv_hostFinish (hostExec_keeps_invocationInv (decodeHtw_format w) hc hi hu) w dst

/-! ## The pipeline agent keeps the invocation on course -/

/-- Each stage computes its part of PIPELINE from what the stage before it left; PACK ends the invocation. -/
theorem pipelineStep_keeps_invocationInv {s t : State} (hi : s.InvocationInv) (h : pipelineStep s = .next t) :
    t.InvocationInv := by
  obtain ⟨-, ⟨hp, rfl⟩ | ⟨hp, rfl⟩ | ⟨hp, rfl⟩ | ⟨hp, rfl⟩⟩ := pipelineStep_next h
  · have hl := (invocationInv_frontend hp).1 hi
    refine (invocationInv_filter rfl).2 ⟨hl, ?_⟩
    obtain ⟨hdec, -⟩ := hl
    show frontEnd s.frame s.dec.exposure s.dec.inv = pipelineSf s.frame s.regs
    rw [hdec, pipelineSf]
  · obtain ⟨hl, hsf⟩ := (invocationInv_filter hp).1 hi
    refine (invocationInv_quantize rfl).2 ⟨by simpa [State.Latched] using hl, ?_⟩
    obtain ⟨hdec, -⟩ := hl
    have hframe : (s.applyFilter s.dec.mode).filterDone.frame = s.frame := funext₂ (frame_of_mem_eq (by simp))
    rw [State.filterDone_ff, filterPlane_eq_applyFilter, pipelineFf, hframe]
    simp [State.edgeRound, ← hdec, ← hsf]
  · obtain ⟨hl, hff⟩ := (invocationInv_quantize hp).1 hi
    refine (invocationInv_pack rfl).2 ⟨hl, ?_⟩
    show quantize Config.matrixLayout s.matrix s.ff = pipelineQf s.edgeRound s.frame s.regs s.matrix
    rw [hff, pipelineQf]
  · exact invocationInv_of_idle rfl

/-- Settles O48: a reset leaves an idle core, the host starts an invocation or leaves it alone, and each stage does its part
of PIPELINE. -/
theorem stepKeepsTheInvocationOnCourse : Obligations.StepKeepsTheInvocationOnCourse := by
  intro s t hc hi h
  obtain ⟨d, rest, -, rfl⟩ | ⟨-, -, ht⟩ | ⟨-, -, ht⟩ := step_next h
  · exact invocationInv_of_idle rfl
  · exact hostStep_keeps_invocationInv (s := s.takeTurn) hc hi ht
  · exact pipelineStep_keeps_invocationInv (s := s.takeTurn) hi ht

end Sys2Proof.Machine
end

section
/-! The host operations one by one (46_host_operations.md R79 to R92): the ways a host operation ends, what a write leaves and
what a read returns, and the obligation of each operation. -/

namespace Sys2Proof.Machine

/-! ## The ways a host operation ends -/

/-- R99: the faults that a busy core raises record PHASE. -/
abbrev busyFaults : List FaultCode := [.writeBusy, .readBusy, .startBusy]

/-- R100: the faults that a core raises whether BUSY or not record no PHASE. -/
abbrev standingFaults : List FaultCode := [.reserved, .writeRo]

/-- R79, R81, R83, R87, R89: what BUSY forbids is done while idle. -/
theorem guarded_idle {s : State} (hs : s.Idle) (c : FaultCode) (w : Htw) (t : State) :
    whenLive s (unlessBusy s c w t) = .next t := by
  obtain ⟨hlive, hbusy⟩ := hs
  rw [unlessBusy_idle hbusy, whenLive_live hlive]

/-- R79, R81, R83, R87, R89: what BUSY forbids faults while busy. -/
theorem guarded_busy {s : State} (hs : s.Busy) {c : FaultCode} (hc : c ∈ busyFaults) (w : Htw) (t : State) :
    FaultsWith (whenLive s (unlessBusy s c w t)) s c w (some s.phase) := by
  obtain ⟨hlive, hbusy⟩ := hs
  obtain ⟨p, e, -, hphase⟩ := raise_live hlive c w
  rw [FaultsWith, unlessBusy_busy hbusy, whenLive_live hlive, e, hphase (by simpa using hc)]

/-- R86, R90, R91, R92: what is never allowed faults in every state without a fault. -/
theorem forbidden_faults {s : State} (hs : s.Live) {c : FaultCode} (hc : c ∈ standingFaults) (w : Htw) :
    FaultsWith (whenLive s (s.raise c w)) s c w none := by
  obtain ⟨p, e, hnone, -⟩ := raise_live hs c w
  rw [FaultsWith, whenLive_live hs, e, hnone (by simpa using hc)]

/-- R80, R82, R84, R85, R88, R89: a read changes the byte returned and nothing else. -/
theorem returnByte_frame {s : State} (hs : s.Live) (b : Byte) :
    SameCore s (s.returnByte b) ∧ (s.returnByte b).fault = none ∧ SameOutside s (s.returnByte b) :=
  ⟨⟨⟨rfl, rfl⟩, ⟨rfl, rfl⟩, ⟨rfl, rfl, rfl, rfl, rfl⟩, fun _ => rfl⟩, hs, rfl, rfl, rfl, rfl, rfl⟩

/-- R80, R82, R84, R85, R88: the reads allowed in any phase. -/
theorem read_completes {s : State} (hs : s.Live) (b : Byte) :
    Completes (whenLive s (s.returnByte b)) fun t =>
      t.readData = some b ∧ SameCore s t ∧ t.fault = none ∧ SameOutside s t :=
  ⟨_, whenLive_live hs _, rfl, returnByte_frame hs b⟩

/-! ## The byte a write leaves and the byte a read returns -/

theorem reg_setReg (s : State) (i : Fin 6) (v : Byte) (j : Fin 6) :
    (s.setReg i v).reg j = if j = i then v else s.reg j := by
  simp only [State.reg, State.setReg_regs, Fin.getElem_fin, Vector.getElem_set, Fin.ext_iff, eq_comm]

theorem thr_setThr (s : State) (k : Fin 48) (v : Byte) (j : Fin 48) :
    (s.setThr k v).thr j = if j = k then v else s.thr j := by
  simp only [State.thr, State.setThr_matrix, Fin.getElem_fin, Vector.getElem_set, Fin.ext_iff, eq_comm]

theorem frame_setFrame_same {s : State} (hwf : s.mem.wf) (y : Fin 120) (x : Fin 128) (v : Byte) :
    (s.setFrame y x v).frame y x = v := Memory.read_write_same hwf _ v

theorem sameMemoryBut_setFrame (s : State) (y : Fin 120) (x : Fin 128) (v : Byte) :
    SameMemoryBut (0x4000 + 128 * y.val + x.val) s (s.setFrame y x v) := fun a' ha' =>
  Memory.read_write_other s.mem v (by rwa [frameAddr_toNat])

/-- R85: the STATUS byte as a number. -/
theorem statusByte_toNat (st : Status) :
    (statusByte st).toNat = 16 * st.mode.toNat + 4 * st.warn.toNat + 2 * st.done.toNat + st.busy.toNat := by
  simp only [statusByte, toNat_append_eq_mul_add, BitVec.toNat_ofBool, BitVec.toNat_ofNat]
  omega

/-! ## The obligations -/

/-- Settles O21: REG_WR is one update of REG behind the guard BUSY. -/
theorem registerWriteStoresUnlessBusy : Obligations.RegisterWriteStoresUnlessBusy := fun s i v =>
  ⟨fun hs => ⟨s.setReg i v, guarded_idle hs _ _ _, reg_setReg s i v, rfl, ⟨rfl, rfl⟩, ⟨rfl, rfl, rfl, rfl, rfl⟩,
    fun _ => rfl, hs.1, rfl, ⟨rfl, rfl, rfl, rfl, rfl⟩⟩,
  fun hs => guarded_busy hs (by decide) _ _⟩

/-- Settles O22: MTX_WR is one update of MATRIX behind the guard BUSY. -/
theorem thresholdWriteStoresUnlessBusy : Obligations.ThresholdWriteStoresUnlessBusy := fun s k v =>
  ⟨fun hs => ⟨s.setThr k v, guarded_idle hs _ _ _, thr_setThr s k v, rfl, ⟨rfl, rfl⟩, ⟨rfl, rfl, rfl, rfl, rfl⟩,
    fun _ => rfl, hs.1, rfl, ⟨rfl, rfl, rfl, rfl, rfl⟩⟩,
  fun hs => guarded_busy hs (by decide) _ _⟩

/-- Settles O23: FRAME_WR is one write of memory behind the guard BUSY. -/
theorem frameWriteStoresUnlessBusy : Obligations.FrameWriteStoresUnlessBusy := fun s y x v =>
  ⟨fun hs hwf => ⟨s.setFrame y x v, guarded_idle hs _ _ _, frame_setFrame_same hwf y x v, sameMemoryBut_setFrame s y x v,
    ⟨rfl, rfl⟩, ⟨rfl, rfl⟩, ⟨rfl, rfl, rfl, rfl, rfl⟩, hs.1, rfl, ⟨rfl, rfl, rfl, rfl, rfl⟩⟩,
  fun hs => guarded_busy hs (by decide) _ _⟩

/-- Settles O24: each of the five reads returns one byte, whatever BUSY is. -/
theorem readsReturnTheStoredByte : Obligations.ReadsReturnTheStoredByte := by
  intro s d hs
  refine ⟨fun i => read_completes hs _, fun k => read_completes hs _, fun y x => ?_, read_completes hs _, ?_⟩
  · rw [← frameAddr_toNat]
    exact read_completes hs _
  · exact ⟨_, whenLive_live hs _, ⟨_, rfl, statusByte_toNat s.status⟩, returnByte_frame hs _⟩

/-- Settles O25: OUT_RD is one read of memory behind the guard BUSY. -/
theorem outputReadReturnsTheByteUnlessBusy : Obligations.OutputReadReturnsTheByteUnlessBusy := by
  intro s i d
  refine ⟨fun hs => ?_, fun hs => guarded_busy hs (by decide) _ _⟩
  rw [← outAddr_toNat]
  exact ⟨_, guarded_idle hs _ _ _, rfl, returnByte_frame hs.1 _⟩

/-- R83: CTRL_WR, by bit 0 alone. -/
theorem exec_ctrlWr (v : Byte) (s : State) :
    exec (.ctrlWr v) s =
      whenLive s (if v.getLsbD 0 then unlessBusy s .startBusy (encodeHtw (.ctrlWr v)) s.startRun else s) := rfl

theorem exec_ctrlWr_noStart {s : State} (hs : s.Live) {v : Byte} (hv : v.getLsbD 0 = false) :
    exec (.ctrlWr v) s = .next s := by
  rw [exec_ctrlWr, hv, if_neg Bool.false_ne_true, whenLive_live hs]

theorem exec_ctrlWr_busy {s : State} (hs : s.Busy) {v : Byte} (hv : v.getLsbD 0 = true) :
    FaultsWith (exec (.ctrlWr v) s) s .startBusy (htw true 0x0036 v) (some s.phase) := by
  rw [exec_ctrlWr, if_pos hv]
  exact guarded_busy hs (by decide) _ _

/-- R83: WARN after START tells the codes without an operation of their own. -/
theorem startRun_warn (s : State) : s.startRun.status.warn = true ↔ s.startRun.dec.mode ∉ supportedModes := by
  rw [← modeSupported_iff]
  simp [statusStart]

/-- Settles O26: bit 0 tells a START from a write without effect, and BUSY a START that faults. -/
theorem controlWriteStartsAnInvocation : Obligations.ControlWriteStartsAnInvocation := by
  intro s v
  refine ⟨fun hs hv => exec_ctrlWr_noStart hs hv, fun hs hv => ⟨s.startRun, exec_ctrlWr_start hs hv, ?_⟩,
    fun hs hv => exec_ctrlWr_busy hs hv⟩
  exact ⟨rfl, rfl, startRun_warn s, rfl, rfl, rfl, ⟨rfl, rfl⟩, rfl, rfl, rfl, rfl, fun _ => rfl, hs.1, rfl,
    ⟨rfl, rfl, rfl, rfl, rfl⟩⟩

/-- Settles O27: STATUS_WR, OUT_WR, RSV_RD and RSV_WR are faults without a guard. -/
theorem forbiddenAccessesAlwaysFault : Obligations.ForbiddenAccessesAlwaysFault := fun _ _ hs =>
  ⟨forbidden_faults hs (by decide) _, fun _ => forbidden_faults hs (by decide) _,
    fun _ _ => ⟨forbidden_faults hs (by decide) _, forbidden_faults hs (by decide) _⟩⟩

end Sys2Proof.Machine
end

section
/-! A run of the pipeline agent (46_host_operations.md R93 to R96, 70_reset_and_hazards.md R113): which stage a step of it
performs, what every stage keeps, and the four stages one after the other. -/

namespace Sys2Proof.Machine

/-! ## Which agent moves, and which stage -/

/-- A step in which the pipeline agent moves. -/
theorem step_pipeline {s : State} (hs : s.Live) (hn : s.NoResetNext) (hm : s.mover = some .pipeline) :
    step s = pipelineStep s.takeTurn := by
  rw [step_of_noReset hn, hs, hm]

/-- A step where neither agent has one. -/
theorem step_noMover {s : State} (hs : s.Live) (hn : s.NoResetNext) (hm : s.mover = none) :
    step s = .refused .noStep := by
  rw [step_of_noReset hn, hs, hm]

/-- With no host statement left the pipeline agent moves as long as a stage is to be done. -/
theorem mover_of_hostDone {s : State} (hh : s.hostReady = false) : s.mover = some .pipeline ↔ s.phase ≠ .idle := by
  rw [← coreReady_iff, State.mover, hh]
  cases s.coreReady <;> simp

/-- Where both agents have a step, the one whose turn it is moves. -/
theorem mover_of_both {s : State} (hh : s.hostReady = true) (hp : s.phase ≠ .idle) : s.mover = some s.turn := by
  rw [State.mover, hh, (coreReady_iff s).2 hp]

theorem phase_ne_idle_of_mover {s : State} (hm : s.mover = some .pipeline) : s.phase ≠ .idle := by
  obtain ⟨-, -, hcore⟩ := mover_spec s
  exact (coreReady_iff s).1 (hcore hm)

/-- R38: the instruction of a phase code is the pipeline agent's step. -/
theorem pipelineStep_of_phase {s : State} {i : Instr} (h : decodePhase (phaseCode s.phase) = .ok i) :
    pipelineStep s = exec i s := by
  simp only [pipelineStep, State.stage, h]

/-! ## What a stage does and what it keeps -/

/-- 10_state.md R17: the phase after a stage. -/
def Phase.next : Phase → Phase
  | .idle => .idle
  | .frontend => .filter
  | .filter => .quantize
  | .quantize => .pack
  | .pack => .idle

/-- What every stage of an invocation keeps: the fault mark, the configuration with FRAME, the host and the parameters. -/
structure SameRun (s t : State) : Prop where
  fault : t.fault = s.fault
  regs : t.regs = s.regs
  matrix : t.matrix = s.matrix
  frame : t.frame = s.frame
  host : t.host = s.host
  params : t.params = s.params

theorem SameRun.trans {s t u : State} (h : SameRun s t) (h' : SameRun t u) : SameRun s u :=
  ⟨h'.fault.trans h.fault, h'.regs.trans h.regs, h'.matrix.trans h.matrix, h'.frame.trans h.frame, h'.host.trans h.host,
    h'.params.trans h.params⟩

theorem sameRun_takeTurn (s : State) : SameRun s s.takeTurn := ⟨rfl, rfl, rfl, rfl, rfl, rfl⟩

theorem sameRun_startRun (s : State) : SameRun s s.startRun := ⟨rfl, rfl, rfl, rfl, rfl, rfl⟩

theorem SameRun.hostReady {s t : State} (h : SameRun s t) : t.hostReady = s.hostReady := by
  unfold State.hostReady
  rw [h.host]

/-- PIPELINE is a function of what a stage keeps. -/
theorem SameRun.pipeline_eq {s t : State} (h : SameRun s t) :
    pipeline t.edgeRound t.frame t.regs t.matrix = pipeline s.edgeRound s.frame s.regs s.matrix := by
  rw [State.edgeRound, State.edgeRound, h.params, h.frame, h.regs, h.matrix]

/-- STATUS changes in PACK alone (46_host_operations.md R94). -/
def statusAfterStage (s : State) : Status := if s.phase = .pack then statusComplete s.status else s.status

/-- A stage leads to the next phase, and changes STATUS in PACK alone. -/
theorem pipelineStep_spec {s : State} (hs : s.Live) (hp : s.phase ≠ .idle) :
    Completes (pipelineStep s) fun t =>
      t.phase = s.phase.next ∧ t.status = statusAfterStage s ∧ t.order = s.order ∧ SameRun s t := by
  obtain ⟨t, ht⟩ : ∃ t, pipelineStep s = .next t := by
    cases hph : s.phase
    case idle => exact absurd hph hp
    all_goals
      rw [pipelineStep_of_phase (by rw [hph]; rfl)]
      exact exec_live hs _
  obtain ⟨⟨hregs, hmatrix⟩, hframe⟩ := pipelineStep_config ht
  refine ⟨t, ht, ?_⟩
  obtain ⟨-, ⟨hph, rfl⟩ | ⟨hph, rfl⟩ | ⟨hph, rfl⟩ | ⟨hph, rfl⟩⟩ := pipelineStep_next ht
  all_goals
    refine ⟨by rw [hph]; rfl, by simp [statusAfterStage, hph], by simp, ?_, hregs, hmatrix, funext₂ hframe, ?_, ?_⟩ <;> simp

/-- Settles O33: the pipeline agent moves only where PHASE names a stage, and where both agents have a step the order of
events names the one that moves. -/
theorem stepRunsTheStageThatPhaseNames : Obligations.StepRunsTheStageThatPhaseNames := by
  intro s hs hn
  refine ⟨fun hm => ?_, mover_of_hostDone, fun hh hp rest => ?_⟩
  · have hp := phase_ne_idle_of_mover hm
    have hexec : ∀ {i}, decodePhase (phaseCode s.phase) = .ok i → step s = exec i s.takeTurn := fun h =>
      (step_pipeline hs hn hm).trans (pipelineStep_of_phase h)
    have hphase : Completes (step s) fun t => t.phase = s.phase.next := by
      obtain ⟨t, ht, hnext, -⟩ := pipelineStep_spec (s := s.takeTurn) hs hp
      exact ⟨t, (step_pipeline hs hn hm).trans ht, hnext⟩
    cases hph : s.phase <;> rw [hph] at hexec hphase hp
    · exact absurd rfl hp
    · exact .inl ⟨rfl, hexec rfl, hphase⟩
    · exact .inr (.inl ⟨rfl, hexec rfl, hphase⟩)
    · exact .inr (.inr (.inl ⟨rfl, hexec rfl, hphase⟩))
    · exact .inr (.inr (.inr ⟨rfl, hexec rfl, hphase⟩))
  · rw [mover_of_both hh hp]
    exact ⟨fun ho => by simp [State.turn, ho], fun ho => by simp [State.turn, ho]⟩

/-- Settles O36: in a final state neither agent is ready, and in a faulted one every instruction and every step is halted. -/
theorem withoutAStepTheModelStopsByName : Obligations.WithoutAStepTheModelStopsByName := by
  refine fun s => ⟨fun hn ⟨hs, hp, hh⟩ => ?_, fun r hr => ⟨exec_halted hr, fun hn => ?_⟩⟩
  · have hcore : s.coreReady = false := by simp [State.coreReady, hp]
    obtain ⟨hnone, -⟩ := mover_spec s
    exact step_noMover hs hn (hnone.2 ⟨hh, hcore⟩)
  · rw [step_of_noReset hn, hr]

/-! ## The four stages, with no host statement left -/

/-- How many stages are to be done. -/
def Phase.stagesLeft : Phase → Nat
  | .idle => 0
  | .frontend => 4
  | .filter => 3
  | .quantize => 2
  | .pack => 1

theorem stagesLeft_next (p : Phase) : p.next.stagesLeft = p.stagesLeft - 1 := by
  cases p <;> rfl

theorem stagesLeft_eq_one {p : Phase} : p.stagesLeft = 1 ↔ p = .pack := by
  cases p <;> decide

theorem noResetNext_of_ahead {s : State} (h : s.NoResetAhead) : s.NoResetNext := fun e he =>
  h e (List.mem_of_mem_head? he)

/-- With no host statement left and no reset to come a step is the stage of PHASE, and that stays so. -/
theorem step_of_hostDone {s : State} (hs : s.Live) (hh : s.hostReady = false) (hp : s.phase ≠ .idle)
    (hn : s.NoResetAhead) :
    Completes (step s) fun t =>
      t.phase = s.phase.next ∧ t.status = statusAfterStage s ∧ t.NoResetAhead ∧ SameRun s t := by
  obtain ⟨t, ht, hphase, hstatus, horder, hrun⟩ := pipelineStep_spec (s := s.takeTurn) hs hp
  refine ⟨t, (step_pipeline hs (noResetNext_of_ahead hn) ((mover_of_hostDone hh).2 hp)).trans ht, hphase, hstatus,
    fun e he => ?_, (sameRun_takeTurn s).trans hrun⟩
  rw [horder] at he
  exact hn e (List.mem_of_mem_tail he)

theorem core_run_succ {s t : State} (h : step s = .next t) (k : Nat) : core.run (k + 1) s = core.run k t := by
  simp only [Host.Core.run, show core.step s = .next t from h]

/-- The stages that are left end the invocation, one step each. -/
theorem run_stagesLeft (n : Nat) {s : State} (hs : s.Live) (hh : s.hostReady = false) (hn : s.NoResetAhead)
    (hp : s.phase.stagesLeft = n + 1) :
    ∃ t, core.run (n + 1) s = .next t ∧ t.phase = .idle ∧ t.status = statusComplete s.status ∧ SameRun s t := by
  induction n generalizing s with
  | zero =>
    have hpack : s.phase = .pack := stagesLeft_eq_one.1 hp
    obtain ⟨t, ht, hphase, hstatus, -, hrun⟩ := step_of_hostDone hs hh (by simp [hpack]) hn
    rw [hpack] at hphase
    rw [statusAfterStage, if_pos hpack] at hstatus
    exact ⟨t, core_run_succ ht 0, hphase, hstatus, hrun⟩
  | succ n ih =>
    have hidle : s.phase ≠ .idle := fun h => by rw [h] at hp; cases hp
    have hpack : s.phase ≠ .pack := fun h => by rw [h] at hp; cases hp
    obtain ⟨u, hu, hphase, hstatus, hnu, hrun⟩ := step_of_hostDone hs hh hidle hn
    rw [statusAfterStage, if_neg hpack] at hstatus
    have hleft : u.phase.stagesLeft = n + 1 := by rw [hphase, stagesLeft_next, hp]; rfl
    obtain ⟨t, ht, hend, hcomplete, hrest⟩ := ih (hrun.fault.trans hs) (hrun.hostReady.trans hh) hnu hleft
    exact ⟨t, (core_run_succ hu _).trans ht, hend, hstatus ▸ hcomplete, hrun.trans hrest⟩

/-- Settles O51: at FRONTEND four stages are left. -/
theorem invocationCompletesInFourSteps : Obligations.InvocationCompletesInFourSteps := by
  intro s hs hh hp hn
  obtain ⟨t, ht, hphase, hstatus, hrun⟩ := run_stagesLeft 3 hs hh hn (by rw [hp]; rfl)
  refine ⟨t, ht, ⟨hrun.fault.trans hs, hphase, hrun.hostReady.trans hh⟩, ?_, ?_, ?_, ?_, ⟨hrun.regs, hrun.matrix⟩,
    congrFun₂ hrun.frame⟩
  all_goals rw [hstatus, statusComplete]

/-! ## PIPELINE, computed by the four stages and by the entry point -/

/-- `t` is where an invocation started in `s` has come to PHASE `p`, on course. -/
structure OnCourse (s : State) (p : Phase) (t : State) : Prop where
  inv : t.InvocationInv
  phase : t.phase = p
  status : t.status = statusStart (decodeRegs s.regs)
  run : SameRun s t

theorem onCourse_startRun (s : State) : OnCourse s .frontend s.startRun :=
  ⟨invocationInv_startRun s, rfl, rfl, sameRun_startRun s⟩

/-- A stage before PACK. -/
theorem OnCourse.stage {s t : State} {p : Phase} {i : Instr} (hs : s.Live) (h : OnCourse s p t)
    (hi : decodePhase (phaseCode p) = .ok i) (hp : p.next ≠ .idle) : Completes (exec i t) (OnCourse s p.next) := by
  obtain ⟨hinv, rfl, hstatus, hrun⟩ := h
  have hidle : t.phase ≠ .idle := fun e => by rw [e] at hp; exact hp rfl
  have hpack : t.phase ≠ .pack := fun e => by rw [e] at hp; exact hp rfl
  obtain ⟨u, hu, hphase, hsame, -, hrest⟩ := pipelineStep_spec (hrun.fault.trans hs) hidle
  rw [statusAfterStage, if_neg hpack] at hsame
  exact ⟨u, (pipelineStep_of_phase hi).symm.trans hu, pipelineStep_keeps_invocationInv hinv hu, hphase,
    hsame.trans hstatus, hrun.trans hrest⟩

/-- PACK, which leaves PIPELINE's bytes in OUT. -/
theorem OnCourse.pack {s t : State} (hs : s.Live) (h : OnCourse s .pack t) :
    Completes (exec .pack t) fun u =>
      (∀ i : Fin 4096, u.out i = (pipeline s.edgeRound s.frame s.regs s.matrix)[i]) ∧ u.phase = .idle ∧
        u.status = statusComplete (statusStart (decodeRegs s.regs)) ∧ SameRun s u := by
  obtain ⟨hinv, hp, hstatus, hrun⟩ := h
  obtain ⟨-, hqf⟩ := (invocationInv_pack hp).1 hinv
  obtain ⟨u, hu, hphase, hcomplete, -, hrest⟩ := pipelineStep_spec (hrun.fault.trans hs) (by simp [hp])
  rw [pipelineStep_of_phase (by rw [hp]; rfl)] at hu
  rw [hp] at hphase
  rw [statusAfterStage, if_pos hp, hstatus] at hcomplete
  refine ⟨u, hu, fun i => ?_, hphase, hcomplete, hrun.trans hrest⟩
  obtain ⟨-, rfl⟩ := whenLive_next.1 hu
  rw [← hrun.pipeline_eq, pipeline, ← hqf, packPlane_eq_packByte]
  exact out_setOut t _ i

/-- The frame of a list of rows, as the entry point reads it. -/
def entryFrame (rows : List (List Byte)) (y : Fin 120) (x : Fin 128) : Byte := (rows.getD y []).getD x 0

/-- The bytes of the register block that go to REG, and those that go to MATRIX. -/
def entryRegs (block : List Byte) : Vector Byte 6 := Vector.ofFn fun i : Fin 6 => block.getD i 0
def entryMatrix (block : List Byte) : Vector Byte 48 := Vector.ofFn fun k : Fin 48 => block.getD (6 + k) 0

theorem entryFrame_eq {rows : List (List Byte)} {y : Fin 120} {x : Fin 128} {row : List Byte} (hy : rows[y.val]? = some row)
    (hx : x.val < row.length) : row[x.val]? = some (entryFrame rows y x) := by
  simp [entryFrame, List.getD_eq_getElem?_getD, hy, hx]

theorem entryRegs_eq {block : List Byte} (h : block.length = 54) (i : Fin 6) :
    block[i.val]? = some (entryRegs block)[i] := by
  simp [entryRegs, List.getD_eq_getElem?_getD, show i.val < block.length by omega]

theorem entryMatrix_eq {block : List Byte} (h : block.length = 54) (k : Fin 48) :
    block[6 + k.val]? = some (entryMatrix block)[k] := by
  simp [entryMatrix, List.getD_eq_getElem?_getD, show 6 + k.val < block.length by omega]

/-- Settles O50: START begins an invocation on course, the stages keep it so up to PACK, and the entry point reads its inputs
byte by byte. -/
theorem invocationComputesThePipelineFunction : Obligations.InvocationComputesThePipelineFunction := by
  refine ⟨fun s v hs hv => ?_, fun er rows block => ⟨fun hsize => ?_, fun hsize => if_neg hsize⟩⟩
  · have ⟨hlive, _⟩ := hs
    obtain ⟨s2, e2, h2⟩ := (onCourse_startRun s).stage (i := .frontend) hlive rfl (by decide)
    obtain ⟨s3, e3, h3⟩ := h2.stage (i := .filter) hlive rfl (by decide)
    obtain ⟨s4, e4, h4⟩ := h3.stage (i := .quantize) hlive rfl (by decide)
    obtain ⟨t, et, hout, hphase, hstatus, hrun⟩ := h4.pack hlive
    refine ⟨_, exec_ctrlWr_start hs hv, s2, e2, s3, e3, s4, e4, t, et, hout, ?_, ?_, ⟨hrun.fault.trans hlive, ?_⟩, hphase,
      ⟨hrun.regs, hrun.matrix⟩, congrFun₂ hrun.frame⟩
    all_goals rw [hstatus]; rfl
  · have ⟨_, hrows, hblock⟩ := hsize
    refine ⟨entryFrame rows, entryRegs block, entryMatrix block, fun y x row hy => ?_, entryRegs_eq hblock,
      entryMatrix_eq hblock, if_pos hsize⟩
    have hlen := hrows row (List.mem_of_getElem? hy)
    exact entryFrame_eq hy (by omega)

end Sys2Proof.Machine
end

section
/-! The faults (60_exceptions.md R97 to R102): the fault that each operation raises in a state without one, said once, the fault
that each transaction word raises by address, and a faulted state, which only reset leaves. -/

namespace Sys2Proof.Machine

/-! ## The fault that an operation raises -/

/-- R100: the code of the fault that an operation raises in a state without one, by BUSY. -/
def raisedFault (busy : Bool) : Instr → Option FaultCode
  | .rsvRd .. | .rsvWr .. => some .reserved
  | .statusWr .. | .outWr .. => some .writeRo
  | .regWr .. | .mtxWr .. | .frameWr .. => if busy then some .writeBusy else none
  | .outRd .. => if busy then some .readBusy else none
  | .ctrlWr v => if v.getLsbD 0 then (if busy then some .startBusy else none) else none
  | _ => none

/-- The guard BUSY raises its fault exactly while BUSY. -/
theorem unlessBusy_raises {s t : State} (ht : t.fault = none) (c : FaultCode) (w : Htw) :
    ((if s.status.busy then some c else none) = none ∧ (unlessBusy s c w t).fault = none) ∨
      ∃ c', (if s.status.busy then some c else none) = some c' ∧ unlessBusy s c w t = s.raise c' w := by
  obtain ⟨hb, e⟩ | ⟨hb, e⟩ := unlessBusy_cases s c w t
  · exact .inr ⟨c, by rw [hb, if_pos rfl], e⟩
  · exact .inl ⟨by rw [hb, if_neg Bool.false_ne_true], by rw [e, ht]⟩

/-- Every operation that completes leaves no fault, or raises the one fault that `raisedFault` names, with its own word. -/
theorem exec_raises {i : Instr} {s t : State} (h : exec i s = .next t) :
    (raisedFault s.status.busy i = none ∧ t.fault = none) ∨
      ∃ c, raisedFault s.status.busy i = some c ∧ t = s.raise c (encodeHtw i) := by
  cases i with
  | regWr | mtxWr | frameWr | outRd =>
    obtain ⟨hs, rfl⟩ := whenLive_next.1 h
    exact unlessBusy_raises (by exact hs) _ _
  | ctrlWr v =>
    obtain ⟨hs, rfl⟩ := whenLive_next.1 h
    by_cases hv : v.getLsbD 0 = true
    · simp only [raisedFault, if_pos hv]
      exact unlessBusy_raises (by exact hs) _ _
    · rw [if_neg hv]
      exact .inl ⟨if_neg hv, hs⟩
  | statusWr | outWr | rsvRd | rsvWr =>
    obtain ⟨-, rfl⟩ := whenLive_next.1 h
    exact .inr ⟨_, rfl, rfl⟩
  | filter =>
    obtain ⟨hs, rfl⟩ := whenLive_next.1 h
    exact .inl ⟨rfl, by rwa [State.filterDone_fault, State.applyFilter_fault]⟩
  | _ =>
    obtain ⟨hs, rfl⟩ := whenLive_next.1 h
    exact .inl ⟨rfl, hs⟩

/-- R100: the code that an operation leaves. -/
theorem exec_faultCode {i : Instr} {s t : State} (h : exec i s = .next t) :
    t.fault.map (·.code) = raisedFault s.status.busy i := by
  obtain ⟨hc, ht⟩ | ⟨c, hc, rfl⟩ := exec_raises h
  · rw [hc, ht]
    rfl
  · rw [hc, raise_code (exec_next_live h)]

/-- R97, R100: an operation that raises nothing completes without a fault. -/
theorem exec_completes_of_raises_none {i : Instr} {s : State} (hs : s.Live) (hi : raisedFault s.status.busy i = none) :
    Completes (exec i s) fun t => t.fault = none := by
  obtain ⟨t, ht⟩ := exec_live hs i
  exact ⟨t, ht, Option.map_eq_none_iff.1 ((exec_faultCode ht).trans hi)⟩

/-- R100: while idle the only faults are those that are raised whether BUSY or not. -/
theorem raisedFault_idle {i : Instr} {c : FaultCode} (h : raisedFault false i = some c) : c ∈ standingFaults := by
  cases i with
  | rsvRd | rsvWr | statusWr | outWr =>
    obtain rfl := Option.some.inj h
    decide
  | ctrlWr v => simp [raisedFault] at h
  | _ => cases h

/-- R99: the faults that record PHASE are raised while BUSY alone. -/
theorem busy_of_raises_busyFault {i : Instr} {b : Bool} {c : FaultCode} (h : raisedFault b i = some c)
    (hc : c ∈ busyFaults) : b = true := by
  have hdisjoint : ∀ c ∈ busyFaults, c ∉ standingFaults := by decide
  cases b
  · exact absurd (raisedFault_idle h) (hdisjoint c hc)
  · rfl

/-- R97: no stage and no filter operation raises a fault. -/
theorem raisedFault_of_ne_htw {i : Instr} (hi : i.format ≠ .htw) (b : Bool) : raisedFault b i = none := by
  cases i with
  | regWr | regRd | mtxWr | mtxRd | ctrlWr | ctrlRd | statusRd | statusWr => exact absurd rfl hi
  | frameWr | frameRd | outRd | outWr | rsvRd | rsvWr => exact absurd rfl hi
  | _ => rfl

/-- 20_memory.md R23: the reserved addresses as ranges. -/
theorem reservedAddr_iff {a : Addr} : reservedAddr a = true ↔
    (0x0038 ≤ a.toNat ∧ a.toNat ≤ 0x3FFF) ∨ (0x7C00 ≤ a.toNat ∧ a.toNat ≤ 0x7FFF) ∨ 0x9000 ≤ a.toNat := by
  simp only [reservedAddr, Bool.or_eq_true, Bool.and_eq_true, decide_eq_true_eq, or_assoc]

/-- R100: at an address of REG, MATRIX or FRAME only a write while BUSY faults. -/
theorem raisedFault_storing {w b : Bool} {a : Addr} {d : Byte}
    (ha : a.toNat ≤ 0x0035 ∨ (0x4000 ≤ a.toNat ∧ a.toNat ≤ 0x7BFF)) :
    raisedFault b (decodeAccess w a d) = if b = true ∧ w = true then some .writeBusy else none := by
  obtain ⟨i, h⟩ | ⟨k, h⟩ | h | h | ⟨y, x, h⟩ | ⟨i, h⟩ | h := addr_cases a
  · rw [decodeAccess_reg h]
    cases w <;> simp [raisedFault]
  · rw [decodeAccess_mtx h]
    cases w <;> simp [raisedFault]
  · omega
  · omega
  · rw [decodeAccess_frame h]
    cases w <;> simp [raisedFault]
  · omega
  · rw [reservedAddr_of_writable ha] at h
    cases h

/-! ## A faulted state -/

/-- R101: in a faulted state every step but reset stops. -/
theorem step_halted {s : State} {r : FaultRecord} (h : s.fault = some r) (hn : s.NoResetNext) :
    step s = .fault (.halted r.code) := by
  rw [step_of_noReset hn, h]

/-- R101, R102: from a faulted state no instruction and no step but reset leads on. -/
theorem noNext_of_faulted {s : State} {r : FaultRecord} (h : s.fault = some r) :
    (∀ i u, exec i s ≠ .next u) ∧ (s.NoResetNext → ∀ u, step s ≠ .next u) := by
  refine ⟨fun i u => ?_, fun hn u => ?_⟩
  · rw [exec_halted h]
    nofun
  · rw [step_halted h hn]
    nofun

/-! ## The obligations -/

/-- Settles O28: the fault of the operation that each address range names. -/
theorem eachTransactionRaisesTheFaultOfHighestPriority : Obligations.EachTransactionRaisesTheFaultOfHighestPriority := by
  intro s t w a d _ h
  rw [exec_faultCode h, decodeHtw_htw]
  dsimp only
  obtain hrsv | hst | hctrl | hstatus | hout :
      ((0x0038 ≤ a.toNat ∧ a.toNat ≤ 0x3FFF) ∨ (0x7C00 ≤ a.toNat ∧ a.toNat ≤ 0x7FFF) ∨ 0x9000 ≤ a.toNat) ∨
        (a.toNat ≤ 0x0035 ∨ (0x4000 ≤ a.toNat ∧ a.toNat ≤ 0x7BFF)) ∨ a.toNat = 0x0036 ∨ a.toNat = 0x0037 ∨
        (0x8000 ≤ a.toNat ∧ a.toNat < 0x9000) := by omega
  · rw [if_pos hrsv, decodeAccess_rsv (reservedAddr_iff.2 hrsv)]
    cases w <;> rfl
  · have hwr : a.toNat ≤ 0x0035 ∨ 0x4000 ≤ a.toNat := by omega
    have hrd : ¬0x8000 ≤ a.toNat := by omega
    have hctrl : a.toNat ≠ 0x0036 := by omega
    rw [if_neg (by omega), if_neg (by omega), raisedFault_storing hst]
    simp only [hwr, hrd, hctrl, and_true, false_and, and_false, if_false]
  · rw [decodeAccess_ctrl hctrl, hctrl]
    cases w <;> cases s.status.busy <;> simp [raisedFault]
  · rw [decodeAccess_status hstatus, hstatus]
    cases w <;> simp [raisedFault]
  · obtain ⟨hlo, hhi⟩ := hout
    have hi : a.toNat = 0x8000 + (⟨a.toNat - 0x8000, by omega⟩ : Fin 4096).val := (Nat.add_sub_cancel' hlo).symm
    rw [if_neg (by omega), decodeAccess_out hi]
    cases w <;> simp [raisedFault, hlo]

/-- Settles O29: a transaction that faults is `raise`, with its own word, and a faulted state has no step. -/
theorem faultEntryIsPrecise : Obligations.FaultEntryIsPrecise := by
  intro s t w r h hr
  obtain ⟨-, ht⟩ | ⟨c, hc, ht⟩ := exec_raises h
  · rw [hr] at ht
    cases ht
  obtain ⟨p, hraise, hnone, hphase⟩ := raise_live (exec_next_live h) c (encodeHtw (decodeHtw w))
  rw [encodeHtw_decodeHtw] at ht hraise
  obtain rfl : r = ⟨c, w, p⟩ := by
    rw [ht, hraise] at hr
    exact (Option.some.inj hr).symm
  obtain ⟨hexec, hstep⟩ := noNext_of_faulted hr
  refine ⟨ht.trans hraise, rfl, hnone, fun hcode => ⟨hphase hcode, busy_of_raises_busyFault hc (by simpa using hcode)⟩,
    hexec, hstep, fun ⟨hf, _⟩ => ?_⟩
  rw [hr] at hf
  cases hf

/-- Settles O31: neither an operation outside the host's nor a START of an idle core is among those that raise a fault. -/
theorem noPipelineStageFaults : Obligations.NoPipelineStageFaults :=
  ⟨fun _ _ hi hs => exec_completes_of_raises_none hs (raisedFault_of_ne_htw hi _),
    fun s _ hs hv => ⟨s.startRun, exec_ctrlWr_start hs hv, hs.1⟩⟩

/-- Settles O30: the faulted state has no step, and reset sets FAULT to none. -/
theorem faultedStateIsLeftOnlyByReset : Obligations.FaultedStateIsLeftOnlyByReset := by
  intro s r hr
  obtain ⟨hexec, hstep⟩ := noNext_of_faulted hr
  exact ⟨hexec, hstep, fun d _ ho => ⟨_, step_reset ho, State.resetWith_fault _ d⟩⟩

end Sys2Proof.Machine
end

section
/-! Reset (70_reset_and_hazards.md R109, 10_state.md R21): a canonical draw is what memory and the buffers hold after it, and what
is outside the core stays. -/

namespace Sys2Proof.Machine

/-! ## A draw that needs no bringing into form -/

/-- A byte written above all cells becomes the last cell. -/
theorem Memory.write_above {m : Memory} {a : Nat} {v : Byte} (hm : ∀ c ∈ m, c.1 < a) (hv : v ≠ 0) :
    m.write a v = m ++ [(a, v)] := by
  induction m with
  | nil => exact if_neg hv
  | cons c m ih =>
    have hlt : c.1 < a := hm c (by simp)
    rw [Memory.write, if_neg (by omega), if_neg (by omega), ih fun d hd => hm d (by simp [hd]), List.cons_append]

/-- Canonical cells, written one after the other above canonical memory, are appended. -/
theorem Memory.foldl_write_above (cells : List Host.Cell) (m : Memory) (hwf : Memory.wf (m ++ cells))
    (hin : ∀ c ∈ cells, inMap c.1 = true) :
    cells.foldl (fun m c => if inMap c.1 then Memory.write m c.1 c.2 else m) m = m ++ cells := by
  induction cells generalizing m with
  | nil => simp
  | cons c cells ih =>
    have ⟨hrise, hnonzero⟩ := hwf
    obtain ⟨-, -, hcross⟩ := List.pairwise_append.1 hrise
    have hwrite : m.write c.1 c.2 = m ++ [c] := Memory.write_above (fun d hd => hcross d hd c (by simp)) (hnonzero c (by simp))
    rw [List.append_cons] at hwf
    rw [List.foldl_cons, if_pos (hin c (by simp)), hwrite, List.append_cons m c cells]
    exact ih _ hwf fun d hd => hin d (by simp [hd])

/-- Canonical cells of FRAME and OUT are the memory made from them. -/
theorem Memory.ofCells_of_wf {cells : List Host.Cell} (hwf : Memory.wf cells) (hin : ∀ c ∈ cells, inMap c.1 = true) :
    Memory.ofCells cells = cells :=
  Memory.foldl_write_above cells [] hwf hin

/-- Samples in the range are left alone. -/
theorem clampPlane_of_inRange {h : Nat} {lo hi : Int} {p : Plane Int h} (hp : InRange lo hi p) : clampPlane lo hi p = p :=
  plane_ext fun y x => by
    obtain ⟨hlo, hhi⟩ := hp y x
    rw [clampPlane, at_planeOf, clamp_of_mem hlo hhi]

/-! ## The obligations -/

/-- Settles O37: a reset step is `resetWith` in every state, and a canonical draw is taken as it is. -/
theorem resetLeavesTheDrawAndAnIdleCore : Obligations.ResetLeavesTheDrawAndAnIdleCore := by
  intro s d rest ho hwf hin
  refine ⟨_, step_reset ho, ⟨rfl, rfl⟩, by rw [State.resetWith_status]; decide, rfl, rfl, rfl, fun a => ?_, rfl, rfl,
    clampPlane_of_inRange, clampPlane_of_inRange, clampPlane_of_inRange⟩
  rw [State.resetWith_mem, Memory.ofCells_of_wf hwf hin]

/-- Settles O38: a reset step takes its turn, and `resetWith` changes the core alone. -/
theorem resetTouchesOnlyTheCore : Obligations.ResetTouchesOnlyTheCore := by
  intro s d rest ho
  refine ⟨_, step_reset ho, rfl, ?_, rfl, rfl, ?_, rfl⟩
  · simp [ho]
  · simp [State.nextWait, ho]

end Sys2Proof.Machine
end

section
/-! Progress (70_reset_and_hazards.md R113): every step while an invocation is in progress brings its end nearer, so that a run
comes to what it is to come to; and where such a step can lead. -/

namespace Sys2Proof.Machine

/-! ## What stands outside the core -/

/-- The order of events, the step count, the wait and the parameters: what no agent's own step touches (logs 2, 3, 7). -/
def SameBooks (s t : State) : Prop :=
  t.order = s.order ∧ t.tick = s.tick ∧ t.wait = s.wait ∧ t.params = s.params

theorem hostStep_sameBooks {s t : State} (h : hostStep s = .next t) : SameBooks s t := by
  obtain ⟨pc, rfl⟩ | ⟨w, dst, u, -, hu, rfl⟩ := hostStep_next h
  · exact ⟨rfl, rfl, rfl, rfl⟩
  · obtain ⟨-, ⟨c, rfl⟩ | ⟨b, rfl⟩ | rfl | ⟨-, ⟨k, v, -, rfl⟩ | ⟨k, v, -, rfl⟩ | ⟨y, x, v, -, rfl⟩ | ⟨v, -, rfl⟩⟩⟩ :=
      hostExec_next (decodeHtw_format w) hu
    all_goals simp [SameBooks]

theorem pipelineStep_sameBooks {s t : State} (h : pipelineStep s = .next t) : SameBooks s t := by
  obtain ⟨-, ⟨-, rfl⟩ | ⟨-, rfl⟩ | ⟨-, rfl⟩ | ⟨-, rfl⟩⟩ := pipelineStep_next h
  all_goals simp [SameBooks]

/-- Whoever moves, the step takes its turn and touches nothing else of what stands outside. -/
theorem step_sameBooks {s t : State} (hn : s.NoResetNext) (h : step s = .next t) : SameBooks s.takeTurn t := by
  obtain ⟨-, ht⟩ | ⟨-, ht⟩ := step_next_noReset hn h
  · exact hostStep_sameBooks ht
  · exact pipelineStep_sameBooks ht

theorem noResetAhead_of_step {s t : State} (hn : s.NoResetAhead) (h : step s = .next t) : t.NoResetAhead := by
  obtain ⟨horder, -⟩ := step_sameBooks (noResetNext_of_ahead hn) h
  intro e he
  rw [horder] at he
  exact hn e (List.mem_of_mem_tail he)

/-! ## An invocation in progress -/

/-- An invocation is in progress, without a fault, and no reset is to come. -/
structure State.InProgress (s : State) : Prop where
  live : s.Live
  control : s.ControlInv
  phase : s.phase ≠ .idle
  noReset : s.NoResetAhead

section
variable {s t : State} (h : s.InProgress)
include h

theorem State.InProgress.busy : s.status.busy = true := by
  obtain ⟨hbusy, -⟩ := h.control
  exact hbusy.2 h.phase

theorem State.InProgress.noResetNext : s.NoResetNext := noResetNext_of_ahead h.noReset

theorem State.InProgress.mover : s.mover = some .host ∨ s.mover = some .pipeline := by
  have hcore : s.coreReady = true := (coreReady_iff s).2 h.phase
  cases hm : s.mover with
  | none =>
    obtain ⟨hnone, -⟩ := mover_spec s
    rw [(hnone.1 hm).2] at hcore
    cases hcore
  | some a => cases a <;> simp

/-- While BUSY a host step is no START. -/
theorem State.InProgress.hostStep_sameControl (ht : hostStep s.takeTurn = .next t) : SameControl s t := by
  obtain hc | ⟨-, -, -, -, -, -, hidle, -⟩ := hostStep_control ht
  · exact hc
  · cases hidle.symm.trans h.busy

end

/-! ## Every step brings the end nearer -/

/-- What is left of an invocation: the stages to be done, then the events of the order, then the wait of the pipeline agent. -/
def State.remaining (s : State) : Nat ×ₗ Nat ×ₗ Nat :=
  toLex (s.phase.stagesLeft, toLex (s.order.length, s.patience))

theorem stagesLeft_pos {p : Phase} (hp : p ≠ .idle) : 0 < p.stagesLeft := by
  cases p with
  | idle => exact absurd rfl hp
  | _ => decide

section
variable {s t : State} (h : s.InProgress)
include h

/-- A host step uses up an event of the order, or shortens the wait of the pipeline agent. -/
theorem State.InProgress.hostStep_remaining_lt (hm : s.mover = some .host) (ht : hostStep s.takeTurn = .next t) :
    t.remaining < s.remaining := by
  obtain ⟨-, hphase⟩ := h.hostStep_sameControl ht
  obtain ⟨horder, htick, hwait, -⟩ := hostStep_sameBooks ht
  have hpatience : t.patience = s.takeTurn.patience := by rw [State.patience, State.patience, hwait, htick]
  simp only [State.remaining, Prod.Lex.toLex_lt_toLex, hphase, horder, hpatience, lt_irrefl, true_and, false_or]
  cases ho : s.order with
  | cons e rest => simp [ho]
  | nil =>
    obtain ⟨-, hhost, -⟩ := mover_spec s
    obtain ⟨-, hpipe⟩ | ⟨-, hshorter⟩ := mover_contested ho (hhost hm) ((coreReady_iff s).2 h.phase)
    · cases hm.symm.trans hpipe
    · exact .inr ⟨by simp [ho], by omega⟩

/-- A stage is one stage less to be done. -/
theorem State.InProgress.pipelineStep_remaining_lt (ht : pipelineStep s.takeTurn = .next t) : t.remaining < s.remaining := by
  obtain ⟨u, hu, hphase, -⟩ := pipelineStep_spec (s := s.takeTurn) h.live h.phase
  obtain rfl := Host.Outcome.next.inj (hu.symm.trans ht)
  have hpos := stagesLeft_pos h.phase
  refine (Prod.Lex.toLex_lt_toLex).2 (.inl ?_)
  show u.phase.stagesLeft < s.phase.stagesLeft
  rw [hphase, stagesLeft_next, State.takeTurn_phase]
  omega

theorem State.InProgress.step_remaining_lt (ht : step s = .next t) : t.remaining < s.remaining := by
  obtain ⟨hm, ht⟩ | ⟨-, ht⟩ := step_next_noReset h.noResetNext ht
  · exact h.hostStep_remaining_lt hm ht
  · exact h.pipelineStep_remaining_lt ht

end

/-- R113: if an invocation in progress stays in `J` until it comes to `E`, it comes to `E`. -/
theorem reaches_of_progress {J E : State → Prop} (hJ : ∀ u, J u → u.InProgress)
    (hstep : ∀ u, J u → E u ∨ Completes (step u) fun t => E t ∨ J t) {s : State} (hs : J s) : Reaches s E := by
  induction hr : s.remaining using WellFoundedLT.induction generalizing s with
  | ind r ih =>
    obtain he | ⟨t, ht, he | hj⟩ := hstep s hs
    · exact reaches_refl he
    · exact reaches_step ht (reaches_refl he)
    · exact reaches_step ht (ih _ (hr ▸ (hJ s hs).step_remaining_lt ht) hj rfl)

/-! ## Where a step of an invocation in progress leads -/

/-- The invocation in progress in `s` is complete in `t` (46_host_operations.md R94). -/
structure Completed (s t : State) : Prop where
  live : t.Live
  control : t.ControlInv
  phase : t.phase = .idle
  status : t.status = statusComplete s.status
  noReset : t.NoResetAhead

section
variable {s t : State} (h : s.InProgress)
include h

/-- A host step that raises no fault leaves the invocation in progress. -/
theorem State.InProgress.hostStep_next (ht : hostStep s.takeTurn = .next t) (hstep : step s = .next t) (hlive : t.Live) :
    t.InProgress ∧ SameControl s t := by
  have hsame := h.hostStep_sameControl ht
  have ⟨_, hphase⟩ := hsame
  exact ⟨⟨hlive, controlInv_of_sameControl h.control hsame, hphase ▸ h.phase, noResetAhead_of_step h.noReset hstep⟩, hsame⟩

/-- A stage leaves the invocation in progress, or completes it. -/
theorem State.InProgress.pipelineStep_next (ht : pipelineStep s.takeTurn = .next t) (hstep : step s = .next t) :
    SameRun s t ∧ ((t.InProgress ∧ t.status = s.status) ∨ Completed s t) := by
  obtain ⟨u, hu, hphase, hstatus, -, hrun⟩ := pipelineStep_spec (s := s.takeTurn) h.live h.phase
  obtain rfl := Host.Outcome.next.inj (hu.symm.trans ht)
  have hcontrol := stepKeepsControlLegal s u h.control hstep
  have hn := noResetAhead_of_step h.noReset hstep
  have hlive : u.Live := hrun.fault.trans h.live
  refine ⟨(sameRun_takeTurn s).trans hrun, ?_⟩
  obtain ⟨hp, hp', hs⟩ | ⟨-, hp', hs⟩ := pipelineStep_control ht
  · exact .inl ⟨⟨hlive, hcontrol, hp', hn⟩, hs⟩
  · exact .inr ⟨hlive, hcontrol, hp', hs, hn⟩

/-- A step leads to a fault of the host's, leaves the invocation in progress, or completes it. -/
theorem State.InProgress.step_next (ht : step s = .next t) :
    (t.status.busy = true ∧ t.fault ≠ none) ∨ (t.InProgress ∧ t.status = s.status) ∨ Completed s t := by
  obtain ⟨-, hmove⟩ | ⟨-, hmove⟩ := step_next_noReset h.noResetNext ht
  · by_cases hlive : t.Live
    · obtain ⟨hprogress, hstatus, -⟩ := h.hostStep_next hmove ht hlive
      exact .inr (.inl ⟨hprogress, hstatus⟩)
    · obtain ⟨hstatus, -⟩ := h.hostStep_sameControl hmove
      exact .inl ⟨hstatus ▸ h.busy, hlive⟩
  · obtain ⟨-, hcases⟩ := h.pipelineStep_next hmove ht
    exact .inr hcases

end

/-- The host has stopped the run while an invocation is in progress; `HostStopsWhileBusy` is that the run comes to this. -/
def State.HostStopped (s : State) : Prop :=
  s.status.busy = true ∧ (s.fault ≠ none ∨ ∃ l, step s = .refused (.noLabel l))

/-- A host statement is performed, or is a branch to no label (log 24). -/
theorem hostStep_completes_or_noLabel {s : State} (hs : s.Live) (hh : s.hostReady = true) :
    (∃ t, hostStep s = .next t) ∨ ∃ l, hostStep s = .refused (.noLabel l) := by
  have hlt : s.host.pc < s.host.script.length := of_decide_eq_true hh
  have hst : s.hostStmt = some s.host.script[s.host.pc] := List.getElem?_eq_getElem hlt
  cases hstmt : s.host.script[s.host.pc] <;> rw [hstmt] at hst
  case xfer w dst =>
    obtain ⟨u, hu⟩ := exec_live hs (decodeHtw w)
    exact .inl ⟨_, hostStep_xfer hst hu⟩
  case brb r n l =>
    rw [hostStep_brb hst, State.hostBranch]
    split_ifs
    · cases findLabel l s.host.script with
      | some pc => exact .inl ⟨_, rfl⟩
      | none => exact .inr ⟨l, rfl⟩
    · exact .inl ⟨_, rfl⟩
  case label l => exact .inl ⟨_, hostStep_label hst⟩

/-- While an invocation is in progress a step completes, unless the host stands at a branch to no label. -/
theorem State.InProgress.step_completes_or_stopped {s : State} (h : s.InProgress) :
    (∃ t, step s = .next t) ∨ s.HostStopped := by
  obtain hm | hm := h.mover
  · obtain ⟨-, hhost, -⟩ := mover_spec s
    rw [step_host h.live h.noResetNext hm]
    obtain hnext | ⟨l, hl⟩ := hostStep_completes_or_noLabel (s := s.takeTurn) h.live (hhost hm)
    · exact .inl hnext
    · exact .inr ⟨h.busy, .inr ⟨l, (step_host h.live h.noResetNext hm).trans hl⟩⟩
  · rw [step_pipeline h.live h.noResetNext hm]
    obtain ⟨t, ht, -⟩ := pipelineStep_spec (s := s.takeTurn) h.live h.phase
    exact .inl ⟨t, ht⟩

theorem reaches_or {s : State} {P Q : State → Prop} (h : Reaches s fun t => P t ∨ Q t) : Reaches s P ∨ Reaches s Q := by
  obtain ⟨k, t, ht, hp | hq⟩ := h
  · exact .inl ⟨k, t, ht, hp⟩
  · exact .inr ⟨k, t, ht, hq⟩

/-! ## The pipeline agent's turn, and the end of the invocation -/

/-- Settles O52: up to the pipeline agent's move only the host moves, which leaves PHASE as it is. -/
theorem pipelineAgentIsWeaklyFair : Obligations.PipelineAgentIsWeaklyFair := by
  intro s hs hc hp hn
  refine reaches_or (Q := State.HostStopped)
    (reaches_of_progress (J := fun u => u.InProgress ∧ u.phase = s.phase) (fun u hu => hu.1) ?_ ⟨⟨hs, hc, hp, hn⟩, rfl⟩)
  rintro u ⟨hu, hphase⟩
  obtain hm | hm := hu.mover
  · obtain ⟨t, ht⟩ | hstop := hu.step_completes_or_stopped
    · refine .inr ⟨t, ht, ?_⟩
      have hmove := (step_host hu.live hu.noResetNext hm).symm.trans ht
      by_cases hlive : t.Live
      · obtain ⟨hprogress, -, hsame⟩ := hu.hostStep_next hmove ht hlive
        exact .inr ⟨hprogress, hsame.trans hphase⟩
      · obtain ⟨hstatus, -⟩ := hu.hostStep_sameControl hmove
        exact .inl (.inr ⟨hstatus ▸ hu.busy, .inl hlive⟩)
    · exact .inl (.inr hstop)
  · exact .inl (.inl ⟨hu.live, hphase, hu.noResetNext, hm⟩)

/-- What PIPELINE is computed from: the configuration, FRAME and the parameters. -/
structure SameInputs (s t : State) : Prop where
  config : SameConfig s t
  frame : t.frame = s.frame
  params : t.params = s.params

theorem SameInputs.refl (s : State) : SameInputs s s := ⟨⟨rfl, rfl⟩, rfl, rfl⟩

theorem SameInputs.trans {s t u : State} (h : SameInputs s t) (h' : SameInputs t u) : SameInputs s u := by
  obtain ⟨⟨hregs, hmatrix⟩, hframe, hparams⟩ := h
  obtain ⟨⟨hregs', hmatrix'⟩, hframe', hparams'⟩ := h'
  exact ⟨⟨hregs'.trans hregs, hmatrix'.trans hmatrix⟩, hframe'.trans hframe, hparams'.trans hparams⟩

theorem SameInputs.pipeline_eq {s t : State} (h : SameInputs s t) :
    pipeline t.edgeRound t.frame t.regs t.matrix = pipeline s.edgeRound s.frame s.regs s.matrix := by
  obtain ⟨⟨hregs, hmatrix⟩, hframe, hparams⟩ := h
  rw [State.edgeRound, State.edgeRound, hparams, hframe, hregs, hmatrix]

/-- While an invocation is in progress every step keeps PIPELINE's inputs (20_memory.md R33). -/
theorem State.InProgress.step_sameInputs {s t : State} (h : s.InProgress) (ht : step s = .next t) : SameInputs s t := by
  obtain ⟨hregs, hmatrix, hframe⟩ := configurationIsFixedWhileBusy s t h.noResetNext h.control h.busy ht
  obtain ⟨-, -, -, hparams⟩ := step_sameBooks h.noResetNext ht
  exact ⟨⟨hregs, hmatrix⟩, funext₂ hframe, hparams⟩

/-- `u` is where the run has come from `s`, the invocation still in progress, and on course if it was. -/
structure Underway (s u : State) : Prop where
  progress : u.InProgress
  status : u.status = s.status
  inputs : SameInputs s u
  course : s.InvocationInv → u.InvocationInv

/-- A step keeps the invocation under way until it stops or completes, and the step that completes it delivers PIPELINE. -/
theorem Underway.step_next {s u t : State} (h : Underway s u) (ht : step u = .next t) :
    t.HostStopped ∨ Underway s t ∨ (Completed s t ∧ SameInputs s t ∧
      (s.InvocationInv → ∀ i : Fin 4096, t.out i = (pipeline s.edgeRound s.frame s.regs s.matrix)[i])) := by
  obtain ⟨hu, hstatus, hinputs, hcourse⟩ := h
  have hinputs' := hinputs.trans (hu.step_sameInputs ht)
  obtain ⟨hbusy, hfault⟩ | ⟨hprogress, hsame⟩ | hcomplete := hu.step_next ht
  · exact .inl ⟨hbusy, .inl hfault⟩
  · exact .inr (.inl ⟨hprogress, hsame.trans hstatus, hinputs',
      fun hs => stepKeepsTheInvocationOnCourse u t hu.control (hcourse hs) ht⟩)
  · refine .inr (.inr ⟨{ hcomplete with status := hstatus ▸ hcomplete.status }, hinputs', fun hs i => ?_⟩)
    have hidle : t.status.busy = false := by rw [hcomplete.status]; rfl
    obtain ⟨-, -, hout⟩ := theStepThatClearsBusyDeliversThePipelinesOutput u t hu.noResetNext hu.control (hcourse hs)
      hu.busy ht hidle
    rw [hout i, hinputs.pipeline_eq]

/-- Settles O53: under way up to the step that completes the invocation. -/
theorem everyInvocationCompletes : Obligations.EveryInvocationCompletes := by
  intro s hs hc hp hn
  refine reaches_or (Q := State.HostStopped) (reaches_of_progress (J := Underway s) (fun u hu => hu.progress) ?_
    ⟨⟨hs, hc, hp, hn⟩, rfl, .refl s, id⟩)
  intro u hu
  obtain ⟨t, ht⟩ | hstop := hu.progress.step_completes_or_stopped
  · refine .inr ⟨t, ht, ?_⟩
    obtain hstop | hunder | ⟨hdone, hinputs, hout⟩ := hu.step_next ht
    · exact .inl (.inr hstop)
    · exact .inr hunder
    · exact .inl (.inl ⟨hdone.live, hdone.phase, hdone.status, hinputs.config, congrFun₂ hinputs.frame, hout⟩)
  · exact .inl (.inr hstop)

end Sys2Proof.Machine
end

section
/-! The WAIT loop (30_encoding.md R40, 70_reset_and_hazards.md R113): its three statements as steps, the host inside it while the
invocation goes on, and the way out of it once the core is idle. -/

namespace Sys2Proof.Machine

/-! ## The three statements -/

/-- R40: the label, the poll of STATUS and the branch, one after the other. -/
theorem State.AtWait.statements {s : State} {lw st : Nat} (h : s.AtWait lw st) :
    s.host.script[s.host.pc]? = some (.label lw) ∧ s.host.script[s.host.pc + 1]? = some (.rd 0x0037 st) ∧
      s.host.script[s.host.pc + 2]? = some (.brb st 0 lw) := by
  obtain ⟨⟨rest, hrest⟩, -⟩ := h
  have hat : ∀ k, s.host.script[s.host.pc + k]? = (scriptWait lw st ++ rest)[k]? := fun k => by
    rw [hrest, List.getElem?_drop]
  exact ⟨hat 0, hat 1, hat 2⟩

/-- A host step from `u` to `t` that moves the host to a statement of its script and touches nothing else of the core but the
byte that a read returns. -/
structure MovesTo (u : State) (pc : Nat) (t : State) : Prop where
  core : t = { u.takeTurn with host := t.host, readData := t.readData }
  script : t.host.script = u.host.script
  pc : t.host.pc = pc
  vars : u.host.vars.wf → t.host.vars.wf

/-- R85: BUSY is bit 0 of the STATUS byte. -/
theorem statusByte_bit_zero (st : Status) : (statusByte st).getLsbD 0 = st.busy := by
  rw [statusByte, BitVec.getLsbD_append]
  simp

section
variable {u : State} (hu : u.Live) (hn : u.NoResetNext) (hm : u.mover = some .host)
include hu hn hm

theorem label_movesTo {l : Nat} (hst : u.hostStmt = some (.label l)) : Completes (step u) (MovesTo u (u.host.pc + 1)) :=
  ⟨_, labelMovesTheHostToTheNextStatement u l hu hn hm hst, rfl, rfl, rfl, id⟩

/-- R40: BRB goes on if the bit is 0, and to the label if it is 1. -/
theorem brb_movesTo {r l pc : Nat} {n : Fin 8} (hst : u.hostStmt = some (.brb r n l))
    (hl : findLabel l u.host.script = some pc) :
    Completes (step u) (MovesTo u (if (u.hostVar r).getLsbD n then pc else u.host.pc + 1)) := by
  obtain ⟨hon, hback, -⟩ := branchChangesOnlyTheHostsPlace u r n l hu hn hm hst
  split_ifs with htaken
  · exact ⟨_, hback htaken pc hl, rfl, rfl, rfl, id⟩
  · exact ⟨_, hon (Bool.eq_false_iff.2 htaken), rfl, rfl, rfl, id⟩

/-- R85, R40: the poll leaves BUSY in bit 0 of its variable. -/
theorem poll_movesTo {r : Nat} (hst : u.hostStmt = some (.rd 0x0037 r)) (hv : u.host.vars.wf) :
    Completes (step u) fun t =>
      MovesTo u (u.host.pc + 1) t ∧ (t.hostVar r).getLsbD 0 = u.status.busy := by
  have hread : exec (decodeHtw (htw false 0x0037 0)) u.takeTurn = .next (u.takeTurn.returnByte (statusByte u.status)) := by
    rw [decodeHtw_htw, decodeAccess_status rfl]
    exact whenLive_live hu _
  obtain ⟨hscript, hpc⟩ := hostFinish_place (u.takeTurn.returnByte (statusByte u.status)) (htw false 0x0037 0) (some r)
  refine ⟨_, (step_host hu hn hm).trans (hostStep_xfer hst hread),
    ⟨?_, hscript, hpc, fun _ => hostFinish_vars_wf (by exact hv) _ _⟩, ?_⟩
  · rw [hostFinish_core]
    simp [State.returnByte]
  · rw [hostVar_hostFinish (u := u.takeTurn.returnByte (statusByte u.status)) (htw_rw _ _ _) hu rfl hv, statusByte_bit_zero]

end

/-! ## The host inside the loop -/

/-- `u` is where the run has come from `s`, a WAIT entered there: everything but the host's place in the loop. -/
structure Waiting (s u : State) : Prop where
  live : u.Live
  control : u.ControlInv
  noReset : u.NoResetAhead
  vars : u.host.vars.wf
  script : u.host.script = s.host.script
  inputs : SameInputs s u

/-- The host's place in the loop, with the number of steps that lead out of it from there once the core is idle. -/
inductive InLoop (s u : State) (st : Nat) : Nat → Prop where
  | label (pc : u.host.pc = s.host.pc) : InLoop s u st 3
  | poll (pc : u.host.pc = s.host.pc + 1) : InLoop s u st 2
  | branchBack (pc : u.host.pc = s.host.pc + 2) (polled : (u.hostVar st).getLsbD 0 = true) : InLoop s u st 4
  | branchOn (pc : u.host.pc = s.host.pc + 2) (polled : (u.hostVar st).getLsbD 0 = false) (idle : u.status.busy = false) :
      InLoop s u st 1

/-- The host waits somewhere in the loop. -/
abbrev WaitingInLoop (s : State) (st : Nat) (u : State) : Prop := Waiting s u ∧ ∃ n, InLoop s u st n

theorem Waiting.inProgress {s u : State} (h : Waiting s u) (hp : u.phase ≠ .idle) : u.InProgress :=
  ⟨h.live, h.control, hp, h.noReset⟩

section
variable {s u t : State} {pc : Nat} (hmove : MovesTo u pc t)
include hmove

theorem MovesTo.sameControl : SameControl u t := by
  rw [hmove.core]
  exact ⟨rfl, rfl⟩

theorem MovesTo.waiting (h : Waiting s u) : Waiting s t := by
  have hcore := hmove.core
  refine ⟨?_, controlInv_of_sameControl h.control hmove.sameControl, ?_, hmove.vars h.vars, hmove.script.trans h.script,
    h.inputs.trans ?_⟩
  · rw [hcore]
    exact h.live
  · rw [hcore]
    exact fun e he => h.noReset e (List.mem_of_mem_tail he)
  · rw [hcore]
    exact ⟨⟨rfl, rfl⟩, rfl, rfl⟩

end

/-- The statement the host stands at, and that it has one. -/
theorem Waiting.stands {s u : State} (h : Waiting s u) {pc : Nat} {x : HostStmt} (hpc : u.host.pc = pc)
    (hx : s.host.script[pc]? = some x) : u.hostStmt = some x ∧ u.hostReady = true := by
  have hst : u.hostStmt = some x := by rw [State.hostStmt, hpc, h.script, hx]
  obtain ⟨hlt, -⟩ := List.getElem?_eq_some_iff.1 hst
  exact ⟨hst, decide_eq_true hlt⟩

section
variable {s u : State} {lw st n : Nat} (hs : s.AtWait lw st) (h : Waiting s u) (hat : InLoop s u st n)
include hs h hat

theorem InLoop.hostReady : u.hostReady = true := by
  obtain ⟨hlabel, hpoll, hbranch⟩ := hs.statements
  cases hat with
  | label hpc => exact (h.stands hpc hlabel).2
  | poll hpc => exact (h.stands hpc hpoll).2
  | branchBack hpc | branchOn hpc => exact (h.stands hpc hbranch).2

/-- Each host step goes round the loop, and on towards its end if the core is idle; the branch that finds the bit polled 0
leaves it. -/
theorem InLoop.host_step (hm : u.mover = some .host) :
    Completes (step u) fun t => ∃ pc, MovesTo u pc t ∧
      ((∃ m, InLoop s t st m ∧ (u.status.busy = false → n = m + 1)) ∨ (u.status.busy = false ∧ pc = s.host.pc + 3)) := by
  obtain ⟨hlabel, hpoll, hbranch⟩ := hs.statements
  have hn := noResetNext_of_ahead h.noReset
  have hl : findLabel lw u.host.script = some s.host.pc := h.script ▸ hs.2
  cases hat with
  | label hpc =>
    obtain ⟨t, ht, hmove⟩ := label_movesTo h.live hn hm (h.stands hpc hlabel).1
    exact ⟨t, ht, _, hmove, .inl ⟨2, .poll (by rw [hmove.pc, hpc]), fun _ => rfl⟩⟩
  | poll hpc =>
    obtain ⟨t, ht, hmove, hbit⟩ := poll_movesTo h.live hn hm (h.stands hpc hpoll).1 h.vars
    have hpc' : t.host.pc = s.host.pc + 2 := by rw [hmove.pc, hpc]
    refine ⟨t, ht, _, hmove, .inl ?_⟩
    cases hbusy : u.status.busy with
    | true => exact ⟨4, .branchBack hpc' (hbit.trans hbusy), nofun⟩
    | false => exact ⟨1, .branchOn hpc' (hbit.trans hbusy) (by rw [hmove.sameControl.1, hbusy]), fun _ => rfl⟩
  | branchBack hpc hpolled =>
    obtain ⟨t, ht, hmove⟩ := brb_movesTo h.live hn hm (h.stands hpc hbranch).1 hl
    exact ⟨t, ht, _, hmove, .inl ⟨3, .label (hmove.pc.trans (if_pos hpolled)), fun _ => rfl⟩⟩
  | branchOn hpc hpolled hidle =>
    obtain ⟨t, ht, hmove⟩ := brb_movesTo h.live hn hm (h.stands hpc hbranch).1 hl
    exact ⟨t, ht, _, hmove, .inr ⟨hidle, (if_neg (Bool.eq_false_iff.1 hpolled)).trans (congrArg (· + 1) hpc)⟩⟩

/-- An idle core's run has only the host's steps. -/
theorem InLoop.mover_of_idle (hp : u.phase = .idle) : u.mover = some .host := by
  have hcore : u.coreReady = false := by simp [State.coreReady, hp]
  rw [State.mover, hat.hostReady hs h, hcore]

end

/-- A stage leaves the host where it is. -/
theorem InLoop.pipeline_step {s u t : State} {st n : Nat} (h : Waiting s u) (hat : InLoop s u st n) (hp : u.phase ≠ .idle)
    (hmove : pipelineStep u.takeTurn = .next t) (ht : step u = .next t) :
    Waiting s t ∧ InLoop s t st n ∧ (t.phase ≠ .idle ∨ (t.phase = .idle ∧ t.status.done = true)) := by
  have hu := h.inProgress hp
  obtain ⟨hrun, hcases⟩ := hu.pipelineStep_next hmove ht
  have hhost := hrun.host
  refine ⟨⟨hrun.fault.trans h.live, stepKeepsControlLegal u t h.control ht, noResetAhead_of_step h.noReset ht,
    hhost ▸ h.vars, hhost ▸ h.script, h.inputs.trans (hu.step_sameInputs ht)⟩, ?_, ?_⟩
  · cases hat with
    | label hpc => exact .label (hhost ▸ hpc)
    | poll hpc => exact .poll (hhost ▸ hpc)
    | branchBack hpc hpolled => exact .branchBack (hhost ▸ hpc) (by rwa [State.hostVar, hhost])
    | branchOn _ _ hidle => cases hidle.symm.trans hu.busy
  · obtain ⟨hprogress, -⟩ | hdone := hcases
    · exact .inl hprogress.phase
    · exact .inr ⟨hdone.phase, by rw [hdone.status]; rfl⟩

theorem Waiting.not_busy {s u : State} (h : Waiting s u) (hp : u.phase = .idle) : u.status.busy = false := by
  obtain ⟨hbusy, -⟩ := h.control
  exact Bool.eq_false_iff.2 fun hb => hbusy.1 hb hp

/-- Once the core is idle the host leaves the loop. -/
theorem InLoop.leaves {s u : State} {lw st n : Nat} (hs : s.AtWait lw st) (h : Waiting s u) (hat : InLoop s u st n)
    (hp : u.phase = .idle) : Reaches u fun t => Waiting s t ∧ SameControl u t ∧ t.host.pc = s.host.pc + 3 := by
  induction n generalizing u with
  | zero => cases hat
  | succ n ih =>
    have hidle := h.not_busy hp
    obtain ⟨t, ht, pc, hmove, ⟨m, hm, hnext⟩ | ⟨-, hpc⟩⟩ := hat.host_step hs h (hat.mover_of_idle hs h hp)
    · have ⟨hstatus, hphase⟩ := hmove.sameControl
      obtain rfl : n = m := Nat.succ.inj (hnext hidle)
      refine reaches_step ht (reaches_trans (ih (hmove.waiting h) hm (hphase.trans hp)) ?_)
      rintro v ⟨hv, ⟨hstatus', hphase'⟩, hpc⟩
      exact reaches_refl ⟨hv, ⟨hstatus'.trans hstatus, hphase'.trans hphase⟩, hpc⟩
    · exact reaches_step ht (reaches_refl ⟨hmove.waiting h, hmove.sameControl, hmove.pc.trans hpc⟩)

/-- While the core is busy the host stays in the loop, so that the invocation completes with the host in it. -/
theorem InLoop.comes_to_idle {s u : State} {lw st n : Nat} (hs : s.AtWait lw st) (h : Waiting s u) (hat : InLoop s u st n)
    (hp : u.phase ≠ .idle) :
    Reaches u fun t => WaitingInLoop s st t ∧ t.phase = .idle ∧ t.status.done = true := by
  refine reaches_of_progress (J := fun t => WaitingInLoop s st t ∧ t.phase ≠ .idle)
    (fun _ ⟨⟨hv, _⟩, hphase⟩ => hv.inProgress hphase) ?_ ⟨⟨h, n, hat⟩, hp⟩
  rintro v ⟨⟨hv, m, hm⟩, hphase⟩
  have hprogress := hv.inProgress hphase
  obtain hmover | hmover := hprogress.mover
  · obtain ⟨t, ht, pc, hmove, ⟨k, hk, -⟩ | ⟨hidle, -⟩⟩ := hm.host_step hs hv hmover
    · exact .inr ⟨t, ht, .inr ⟨⟨hmove.waiting hv, k, hk⟩, hmove.sameControl.2 ▸ hphase⟩⟩
    · cases hidle.symm.trans hprogress.busy
  · obtain ⟨t, hmove, -⟩ := pipelineStep_spec (s := v.takeTurn) hv.live hphase
    have ht := (step_pipeline hv.live hprogress.noResetNext hmover).trans hmove
    obtain ⟨hwaiting, hloop, hgo | hend⟩ := hm.pipeline_step hv hphase hmove ht
    · exact .inr ⟨t, ht, .inr ⟨⟨hwaiting, m, hloop⟩, hgo⟩⟩
    · exact .inr ⟨t, ht, .inl ⟨⟨hwaiting, m, hloop⟩, hend⟩⟩

/-- Settles O54: in the loop up to the end of the invocation, if one is in progress, and then out of it. -/
theorem waitLoopEnds : Obligations.WaitLoopEnds := by
  intro s lw st hlive hcontrol hvars hn hs
  have hwaiting : Waiting s s := ⟨hlive, hcontrol, hn, hvars, rfl, .refl s⟩
  have hentry : InLoop s s st 3 := .label rfl
  have hidle : Reaches s fun u => WaitingInLoop s st u ∧ u.phase = .idle ∧ (s.phase ≠ .idle → u.status.done = true) := by
    by_cases hp : s.phase = .idle
    · exact reaches_refl ⟨⟨hwaiting, 3, hentry⟩, hp, fun h => absurd hp h⟩
    · refine reaches_trans (hentry.comes_to_idle hs hwaiting hp) ?_
      rintro u ⟨hu, hphase, hdone⟩
      exact reaches_refl ⟨hu, hphase, fun _ => hdone⟩
  refine reaches_trans hidle ?_
  rintro u ⟨⟨hu, m, hm⟩, hphase, hdone⟩
  refine reaches_trans (hm.leaves hs hu hphase) ?_
  rintro t ⟨ht, ⟨hstatus, hphase'⟩, hpc⟩
  have hidle : t.phase = .idle := hphase'.trans hphase
  exact reaches_refl ⟨⟨ht.live, ht.not_busy hidle⟩, hidle, hstatus ▸ hdone, ht.script, hpc, ht.inputs.config,
    congrFun₂ ht.inputs.frame⟩

end Sys2Proof.Machine
end

section
/-! What no host operation touches (46_host_operations.md, "Common to every host operation"). -/

namespace Sys2Proof.Machine

/-- Settles O40: a host operation leaves the control state as it is or is START, and it does not write OUT. -/
theorem hostOperationsLeavePhaseAndOutput : Obligations.HostOperationsLeavePhaseAndOutput := by
  intro s t w h
  refine ⟨?_, hostExec_out (decodeHtw_format w) h⟩
  obtain ⟨-, hphase⟩ | ⟨v, hw, hstart, hidle, rfl⟩ := hostExec_control (decodeHtw_format w) h
  · exact .inl hphase
  · exact .inr ⟨v, hw, hstart, hidle, s.startRun_phase⟩

end Sys2Proof.Machine
end
